-- ==== Sys2Proof/Word.lean ====
section
/-! DEFINITION. The word types of the block: bytes, the 2-bit count, and the widths of the two write ports. -/

namespace Sys2Proof

/-- A RawByte, a buffer register, a register value: 8 bits, bit 0 least significant (R8, R10, R50). -/
abbrev Byte := BitVec 8

/-- The width of `count`: 2 bits, values 0 to 3 (R11). -/
abbrev Count := BitVec 2

/-- A RegisterAddress: 9 bits, bank bit and 8 register bits (R30, R34; P12 of R7). -/
abbrev SynthAddr := BitVec 9

/-- A VolumeLevel: 7 bits (R9, R93). -/
abbrev Level := BitVec 7

/-- A codec register index: 7 bits (R22, R30; P13 of R7). -/
abbrev CodecReg := BitVec 7

/-- A codec register value: 9 bits (R22, R30; P13 of R7). -/
abbrev CodecVal := BitVec 9

end Sys2Proof
end

