-- ==== Sys2Proof/Machine/Flags.lean ====
section
/-! DEFINITION. The predicates of R15, all computed within one step and none stored, and the constants they test. -/

namespace Sys2Proof.Machine

/-- P1 of R7: the mask of the Note-On test (0xF8 wins over the prose's `0x9x`, spec/90_conflicts.md C1; log entry 2). -/
def noteOnMask : Byte := 0xF8

/-- P2 of R7: what the Note-On test compares with. -/
def noteOnMatch : Byte := 0x90

/-- P3 of R7: the one status byte of a Program-Change-shaped message. -/
def pcStatusByte : Byte := 0xC0

/-- P4 of R7: the size of the PartialMessage buffer, in bytes. -/
def bufSize : Count := 3

/-- P5 of R7: the length of a Note-On-shaped message. -/
def noteOnLen : Count := 3

/-- P6 of R7: the length of a Program-Change-shaped message. -/
def pcLen : Count := 2

/-- `is_status(b)`: bit 7 is set (R8, R15, R50). -/
def isStatus (b : Byte) : Bool := b.getLsbD 7

/-- `noteon_status(s)`: `(s & NOTE_ON_MASK) == NOTE_ON_MATCH` (R8, R15). -/
def noteonStatus (s : Byte) : Bool := s &&& noteOnMask == noteOnMatch

/-- `pc_status(s)`: `s == PC_STATUS` (R8, R15). -/
def pcStatus (s : Byte) : Bool := s == pcStatusByte

/-- `in_progress`: `count > 0` (R15). -/
def inProgress (c : Count) : Bool := c != 0

/-- `full`: `count == 3` (R15). -/
def isFull (c : Count) : Bool := c == bufSize

end Sys2Proof.Machine
end

