-- ==== Sys2Proof/Machine/Operands.lean ====
section
/-! DEFINITION. The message type the Decoder hands to the Router (R83), the packers of the output fields (R56 to R58) and their inverse, the message bytes of a mnemonic (R64). -/

namespace Sys2Proof.Machine

/-- A DecodedMessage: exactly two forms, each with exactly the bits that its format leaves free (R52, R53), so that
the Router cannot be asked about any other message (R83, R91, decision D12). -/
inductive DecodedMessage where
  /-- `NoteOn(b0, b1, b2)`: the bits `h`, `k`, `a` of `b0` and the seven bits of `b1` and of `b2` (R52). -/
  | noteOn (hka : BitVec 3) (d1 d2 : BitVec 7)
  /-- `ProgChange(b0, b1)`: `b0` is 0xC0; the seven bits of `b1` (R53). -/
  | progChange (d1 : BitVec 7)
deriving DecidableEq, Repr

/-- The status byte `10010hka` (R52). -/
def noteOnStatusByte (hka : BitVec 3) : Byte := noteOnMatch ||| hka.setWidth 8

/-- The data byte `0ddddddd` (R50). -/
def dataByte (d : BitVec 7) : Byte := d.setWidth 8

/-- The bytes of a message, first received first (R36). -/
def DecodedMessage.bytes : DecodedMessage → List Byte
  | .noteOn hka d1 d2 => [noteOnStatusByte hka, dataByte d1, dataByte d2]
  | .progChange d1 => [pcStatusByte, dataByte d1]

/-- `NoteOn(b0, b1, b2)` of three bytes that have passed the test of format N3 (R78, R83). -/
def DecodedMessage.ofNoteOn (b0 b1 b2 : Byte) : DecodedMessage :=
  .noteOn (b0.setWidth 3) (b1.setWidth 7) (b2.setWidth 7)

/-- `ProgChange(b0, b1)` of two bytes of which the first is 0xC0 (R79, R83). -/
def DecodedMessage.ofProgChange (b1 : Byte) : DecodedMessage := .progChange (b1.setWidth 7)

/-- The byte ranges R83 gives each form of a DecodedMessage. -/
def messageInRange : List Byte → Bool
  | [b0, b1, b2] => b0 &&& 0xF8 == 0x90 && !isStatus b1 && !isStatus b2
  | [b0, b1] => b0 == 0xC0 && !isStatus b1
  | _ => false

/-- P9 of R7: the mask of a data byte. -/
def dataMask : Byte := 0x7F

/-- P7 of R7: the status bits that extend the address. -/
def addrHiMask : Byte := 0x03

/-- P7 of R7: how far left they go. -/
def addrHiShift : Nat := 7

/-- P8 of R7: the status bit that extends the value. -/
def valHiMask : Byte := 0x04

/-- P8 of R7: how far left it goes. -/
def valHiShift : Nat := 5

/-- P10 of R7: the codec register that VOLSET writes. -/
def codecVolReg : CodecReg := 2

/-- P11 of R7: the flag bit of the codec value, `1 << 8`. -/
def codecVolFlag : CodecVal := 0x100

/-- `PackAddr(b0, b1)`: `((b0 & 0x03) << 7) | (b1 & 0x7F)`, 9 bits (R56). -/
def packAddr (b0 b1 : Byte) : SynthAddr :=
  ((b0 &&& addrHiMask).setWidth 9 <<< addrHiShift) ||| (b1 &&& dataMask).setWidth 9

/-- `PackVal(b0, b2)`: `((b0 & 0x04) << 5) | (b2 & 0x7F)`, 8 bits (R57). -/
def packVal (b0 b2 : Byte) : Byte :=
  ((b0 &&& valHiMask) <<< valHiShift) ||| (b2 &&& dataMask)

/-- `VolumeLevel = b1 & 0x7F`, 7 bits (R58, R93). -/
def volumeLevel (b1 : Byte) : Level := (b1 &&& dataMask).setWidth 7

/-- The codec value of the volume operation: `(1 << 8) | level`, 9 bits (R58, R94). -/
def volumeValue (level : Level) : CodecVal := codecVolFlag ||| level.setWidth 9

/-- `PackVol(b1)`: the codec value of a Program-Change-shaped message (R58). -/
def packVol (b1 : Byte) : CodecVal := volumeValue (volumeLevel b1)

/-- R64: the three bytes of `REGWR a, v`. -/
def regwrBytes (a : SynthAddr) (v : Byte) : List Byte :=
  [0x90 ||| ((a >>> 7).setWidth 8 &&& 0x03) ||| (((v >>> 7) &&& 0x01) <<< 2), a.setWidth 8 &&& 0x7F, v &&& 0x7F]

/-- R64: the two bytes of `VOLSET l`. -/
def volsetBytes (level : Level) : List Byte := [0xC0, level.setWidth 8 &&& 0x7F]

end Sys2Proof.Machine
end

