-- ==== Sys2Proof/Syntax.lean ====
section
/-! DEFINITION. The block's operations, one constructor per row of spec/opcode_table.json (R63, R65). -/

namespace Sys2Proof

/-- The operations of the block. A byte-level operation carries the input byte that selects it, as the operand
column of R63 has it; a message-level operation carries the operands of its mnemonic, `REGWR a, v` and `VOLSET l`.
Which bytes may stand in each byte-level operation is `Instr.wellFormed`. -/
inductive Instr where
  /-- DATA.ORPHAN: a data byte at `count == 0` (R75). -/
  | dataOrphan (b : Byte)
  /-- DATA.APPEND: a data byte at `count` 1 or 2 (R77). -/
  | dataAppend (b : Byte)
  /-- DATA.OVERFLOW: a data byte at `count == 3` (R76). -/
  | dataOverflow (b : Byte)
  /-- ST.NOTEON: a status byte 0x90 to 0x97 (R72). -/
  | stNoteon (b : Byte)
  /-- ST.PC: the status byte 0xC0 (R73). -/
  | stPc (b : Byte)
  /-- ST.OTHER.1: a status byte 0x80 to 0x8F (R51, R74). -/
  | stOther1 (b : Byte)
  /-- ST.OTHER.2: a status byte 0x98 to 0x9F (R51, R74). -/
  | stOther2 (b : Byte)
  /-- ST.OTHER.3: a status byte 0xA0 to 0xBF (R51, R74). -/
  | stOther3 (b : Byte)
  /-- ST.OTHER.4: the status byte 0xC1 (R51, R74). -/
  | stOther4 (b : Byte)
  /-- ST.OTHER.5: the status bytes 0xC2 and 0xC3 (R51, R74). -/
  | stOther5 (b : Byte)
  /-- ST.OTHER.6: a status byte 0xC4 to 0xC7 (R51, R74). -/
  | stOther6 (b : Byte)
  /-- ST.OTHER.7: a status byte 0xC8 to 0xCF (R51, R74). -/
  | stOther7 (b : Byte)
  /-- ST.OTHER.8: a status byte 0xD0 to 0xDF (R51, R74). -/
  | stOther8 (b : Byte)
  /-- ST.OTHER.9: a status byte 0xE0 to 0xFF (R51, R74). -/
  | stOther9 (b : Byte)
  /-- REGWR a, v: write the value `v` to SYNTH address `a` (R63, R92). -/
  | regwr (addr : SynthAddr) (val : Byte)
  /-- VOLSET l: write `0x100 | l` to CODEC register 2 (R63, R93). -/
  | volset (level : Level)
deriving DecidableEq, Repr

end Sys2Proof
end

