-- ==== Sys2Proof/WellFormed.lean ====
section
/-! DEFINITION. Which operands an operation admits: the mask and match columns of spec/opcode_table.json. -/

namespace Sys2Proof

/-- The byte of a byte-level operation lies in its row of the opcode table: `byte & mask == match`, with the
row's mask and match (R50, R51). The operands of REGWR and VOLSET are exactly as wide as their fields, so every
one is admitted (R52, R53, R63). -/
def Instr.wellFormed : Instr → Bool
  | .dataOrphan b => b &&& 0x80 == 0x00
  | .dataAppend b => b &&& 0x80 == 0x00
  | .dataOverflow b => b &&& 0x80 == 0x00
  | .stNoteon b => b &&& 0xF8 == 0x90
  | .stPc b => b &&& 0xFF == 0xC0
  | .stOther1 b => b &&& 0xF0 == 0x80
  | .stOther2 b => b &&& 0xF8 == 0x98
  | .stOther3 b => b &&& 0xE0 == 0xA0
  | .stOther4 b => b &&& 0xFF == 0xC1
  | .stOther5 b => b &&& 0xFE == 0xC2
  | .stOther6 b => b &&& 0xFC == 0xC4
  | .stOther7 b => b &&& 0xF8 == 0xC8
  | .stOther8 b => b &&& 0xF0 == 0xD0
  | .stOther9 b => b &&& 0xE0 == 0xE0
  | .regwr _ _ => true
  | .volset _ => true

end Sys2Proof
end

