-- ==== Sys2Proof/Decode.lean ====
section
/-! DEFINITION. The decoder: which operation a byte is at a given count (R65, R70), which operation a whole message is (R52, R53); then the encoder (R64). -/

namespace Sys2Proof

open Sys2Proof.Machine

/-- Why a list of bytes is no operation. -/
inductive Reject where
  /-- No byte at all: the block has no step until one arrives (R121). -/
  | noByte
  /-- Two bytes whose first is not 0xC0 are no Program-Change-shaped message (R53). -/
  | notProgramChangeShaped
  /-- Three bytes whose first is not 0x90 to 0x97 are no Note-On-shaped message (R52). -/
  | notNoteOnShaped
  /-- A byte after the first is a status byte, which abandons the message (R52, R53, R82). -/
  | statusInsideMessage
  /-- More than three bytes: no format is that long (R53). -/
  | tooLong
deriving DecidableEq, Repr

/-- The row of the opcode table that a status byte lies in: ST.NOTEON, ST.PC or one of the nine patterns of
ST.OTHER (R51). The patterns are disjoint, so the order of the tests is immaterial. -/
def decodeStatus (b : Byte) : Instr :=
  if b &&& 0xF8 == 0x90 then .stNoteon b
  else if b &&& 0xFF == 0xC0 then .stPc b
  else if b &&& 0xF0 == 0x80 then .stOther1 b
  else if b &&& 0xF8 == 0x98 then .stOther2 b
  else if b &&& 0xE0 == 0xA0 then .stOther3 b
  else if b &&& 0xFF == 0xC1 then .stOther4 b
  else if b &&& 0xFE == 0xC2 then .stOther5 b
  else if b &&& 0xFC == 0xC4 then .stOther6 b
  else if b &&& 0xF8 == 0xC8 then .stOther7 b
  else if b &&& 0xF0 == 0xD0 then .stOther8 b
  else .stOther9 b

/-- The byte-level operation that the byte `b` is at count `c`: the four tests of R70 in their order. Every byte
at every count is one; none is illegal (R88). -/
def decodeByte (c : Count) (b : Byte) : Instr :=
  if isStatus b then decodeStatus b
  else if isFull c then .dataOverflow b
  else if c == 0 then .dataOrphan b
  else .dataAppend b

/-- The message-level operation that a complete message of the Decoder is: the packed operands of REGWR (R92)
or the level of VOLSET (R93). -/
def decodeMessage : DecodedMessage → Instr
  | .noteOn hka d1 d2 =>
    .regwr (packAddr (noteOnStatusByte hka) (dataByte d1)) (packVal (noteOnStatusByte hka) (dataByte d2))
  | .progChange d1 => .volset (volumeLevel (dataByte d1))

/-- The decoder on any bytes: one byte is a byte-level operation chosen by the count (R70), two bytes are a
message of format P2 (R53), three bytes one of format N3 (R52); anything else is rejected by name. -/
def decode (c : Count) : List Byte → Except Reject Instr
  | [] => .error .noByte
  | [b] => .ok (decodeByte c b)
  | [b0, b1] =>
    if !pcStatus b0 then .error .notProgramChangeShaped
    else if isStatus b1 then .error .statusInsideMessage
    else .ok (decodeMessage (.ofProgChange b1))
  | [b0, b1, b2] =>
    if !noteonStatus b0 then .error .notNoteOnShaped
    else if isStatus b1 || isStatus b2 then .error .statusInsideMessage
    else .ok (decodeMessage (.ofNoteOn b0 b1 b2))
  | _ :: _ :: _ :: _ :: _ => .error .tooLong

/-- The `when` column of the opcode table: at which counts the tests of R70 select the operation. A status byte
is selected at any count; a message-level operation does not depend on the count (R55, R90). -/
def Instr.selectedAt (c : Count) : Instr → Bool
  | .dataOrphan _ => c == 0
  | .dataAppend _ => c == 1 || c == 2
  | .dataOverflow _ => c == 3
  | .stNoteon _ => true
  | .stPc _ => true
  | .stOther1 _ => true
  | .stOther2 _ => true
  | .stOther3 _ => true
  | .stOther4 _ => true
  | .stOther5 _ => true
  | .stOther6 _ => true
  | .stOther7 _ => true
  | .stOther8 _ => true
  | .stOther9 _ => true
  | .regwr _ _ => true
  | .volset _ => true

/-- The bytes of an operation, first received first: the byte itself, or the bytes of the message (R64). -/
def encode : Instr → List Byte
  | .dataOrphan b => [b]
  | .dataAppend b => [b]
  | .dataOverflow b => [b]
  | .stNoteon b => [b]
  | .stPc b => [b]
  | .stOther1 b => [b]
  | .stOther2 b => [b]
  | .stOther3 b => [b]
  | .stOther4 b => [b]
  | .stOther5 b => [b]
  | .stOther6 b => [b]
  | .stOther7 b => [b]
  | .stOther8 b => [b]
  | .stOther9 b => [b]
  | .regwr a v => regwrBytes a v
  | .volset l => volsetBytes l

/-- The bytes of a table word of `nbits` bits, first received first. The table writes a message as one number
with the first byte received leftmost, so the first byte holds the highest bits (log entry 8). -/
def tableBytes (nbits w : Nat) : List Byte :=
  if 2 ^ nbits ≤ w then []
  else if nbits = 8 then [BitVec.ofNat 8 w]
  else if nbits = 16 then [BitVec.ofNat 8 (w / 256), BitVec.ofNat 8 w]
  else if nbits = 24 then [BitVec.ofNat 8 (w / 65536), BitVec.ofNat 8 (w / 256), BitVec.ofNat 8 w]
  else []

/-- The operation the decoder reads from a table word, at the count right after reset (log entry 8). -/
def decodeTableWord (nbits w : Nat) : Option Instr :=
  match decode 0 (tableBytes nbits w) with
  | .ok i => some i
  | .error _ => none

end Sys2Proof
end

