-- ==== Sys2Proof/Config.lean ====
section
/-! DEFINITION. What the environment decides and the spec leaves open: the Codec Bus Adapter's answers (log entry 4). -/

namespace Sys2Proof

/-- The Codec Bus Adapter's answer to one codec write: `success` or `failure` (R6, R22, R33). -/
inductive CodecAnswer where
  /-- The adapter answers `success`. -/
  | ok
  /-- The adapter answers `failure`. -/
  | fail
deriving DecidableEq, Repr, Inhabited

/-- FREE VALUE (log entry 4): the answer to codec write number `n` (counted from 0) where the state holds no
answer given beforehand. R6: the answer is an oracle input "under no law"; R136: a model assumes that it
arrives. It has no body, so no proof can learn which of the two answers it is. -/
opaque Config.codecAnswer (n : Nat) : CodecAnswer

end Sys2Proof
end

