-- ==== Sys2Proof/Machine/State.lean ====
section
/-! DEFINITION. The state of the block (R10 to R14), its ports as plain data (R20 to R24), the reasons a run can stop, and the state after reset (R19). -/

namespace Sys2Proof.Machine

/-- A diagnostic event on port DIAG (R105). -/
inductive DiagEvent where
  /-- Code 1: a status byte arrived with a message in progress; carries the previous status byte (R106). -/
  | dropIncomplete (prevStatus : Byte)
  /-- Code 2: a data byte arrived with the buffer full; carries the discarded byte (R107). -/
  | dropData (byte : Byte)
deriving DecidableEq, Repr

/-- One output of the block: a diagnostic event, or one write transaction on one of the two ports (R6). -/
inductive Output where
  /-- An event on port DIAG (R23). -/
  | diag (e : DiagEvent)
  /-- A transaction on port SYNTH_WR (R21, R32). -/
  | synthWrite (addr : SynthAddr) (val : Byte)
  /-- A transaction on port CODEC_WR (R22, R33). -/
  | codecWrite (reg : CodecReg) (val : CodecVal)
deriving DecidableEq, Repr

/-- Why the machine stops. The step of the block never stops so: a failed codec write is a next state with
`halted` set (R110). -/
inductive Fault where
  /-- A codec write of the initialisation program was answered `failure`, so the block is never started (R130).
  Raised by `systemBoot` only, never by `exec` or `step`; safe: it is the source's termination of the process. -/
  | codecInitFailed
deriving DecidableEq, Repr

/-- Why the model refuses. -/
inductive Refusal where
  /-- No meaning for the instruction. Raised by no arm of `exec`; safe. -/
  | notModelled (mnemonic : String)
  /-- `exec` was asked for a byte-level operation that the tests of R70 do not select: its byte is not in its row
  of the opcode table, or the count is not one of its `when` column. Raised by `exec` only on terms the decoder
  never gives, so never by `step`; safe (log entry 6). -/
  | notSelected
deriving DecidableEq, Repr

/-- The state. `buf0` to `halted` are the whole state of the block (R10 to R14). The fields after them are the
ports: what the environment has offered and not yet given (R20, R22, R24), and the record of the outputs (R6, R31,
R137). `answersTaken` is the model's own counter (log entry 4). -/
structure State where
  /-- `buf[0]`: the status byte of the message in progress (R10). -/
  buf0 : Byte
  /-- `buf[1]`: its first data byte (R10). -/
  buf1 : Byte
  /-- `buf[2]`: its second data byte (R10). -/
  buf2 : Byte
  /-- How many of the buffer bytes are valid (R11). -/
  count : Count
  /-- The block has failed fatally and takes no more bytes (R13); also the level of port HALTED (R24). -/
  halted : Bool
  /-- Port RX: the bytes the environment has delivered and the block has not taken, oldest first (R18, R20). -/
  rx : List Byte
  /-- Port RESET: its level at the coming step boundaries, next first; not asserted after the last (R24, R127). -/
  resetIn : List Bool
  /-- Port CODEC_WR: the answers the environment has given beforehand, next first (R6, R22). -/
  answers : List CodecAnswer
  /-- How many answers the block has consumed (the model's own; log entry 4). -/
  answersTaken : Nat
  /-- Every output of the block so far, oldest first (R39, R137). -/
  out : List Output
deriving DecidableEq, Repr

/-- Right after reset: `count = 0`, `halted = 0` (R19). The buffer bytes, unspecified there, are 0 by log entry 1.
Nothing has been delivered, asserted, answered or output. -/
def State.reset : State :=
  { buf0 := 0, buf1 := 0, buf2 := 0, count := 0, halted := false,
    rx := [], resetIn := [], answers := [], answersTaken := 0, out := [] }

end Sys2Proof.Machine
end

