-- ==== Sys2Proof/Machine/Ops.lean ====
section
/-! DEFINITION. The named operations over the state: the registers and ports, the Decoder's operations (R70 to R80), the Router (R90 to R96), the fatal condition (R110) and reset (R125). -/

namespace Sys2Proof.Machine

-- The registers (R10, R11, R13)

/-- `buf[i] <- b` (R10). There is no `buf[3]`, and no rule writes it (R76). -/
def State.bufWrite (i : Count) (b : Byte) (s : State) : State :=
  { s with
    buf0 := if i = 0 then b else s.buf0
    buf1 := if i = 1 then b else s.buf1
    buf2 := if i = 2 then b else s.buf2 }

/-- `count <- n` (R11). -/
def State.setCount (n : Count) (s : State) : State := { s with count := n }

/-- `halted <- h` (R13). -/
def State.setHalted (h : Bool) (s : State) : State := { s with halted := h }

/-- The level of the output port HALTED (R24). -/
def State.haltedOut (s : State) : Bool := s.halted

-- The ports (R20 to R24)

/-- One output leaves the block, after all earlier ones (R39). -/
def State.emit (o : Output) (s : State) : State := { s with out := s.out ++ [o] }

/-- `Diag(e)`: the event goes out on port DIAG and the block continues; nothing comes back (R23). -/
def State.diag (e : DiagEvent) (s : State) : State := s.emit (.diag e)

/-- The codes of R105; 0 is "no event". -/
def diagCode : Option DiagEvent → Nat
  | none => 0
  | some (.dropIncomplete _) => 1
  | some (.dropData _) => 2

/-- The code of the fatal condition, which is no event of port DIAG (R105, R110). -/
def codecWriteFailureCode : Nat := 3

/-- `SynthWrite(addr, val)`: one transaction on port SYNTH_WR; it returns nothing and cannot fail (R32). -/
def synthWrite (addr : SynthAddr) (val : Byte) (s : State) : State := s.emit (.synthWrite addr val)

/-- The answer the environment gives to the codec write issued next: the first of the answers given beforehand,
else a free value (R6, R33, R136; log entry 4). -/
def State.nextAnswer (s : State) : CodecAnswer :=
  match s.answers with
  | a :: _ => a
  | [] => Config.codecAnswer s.answersTaken

/-- One answer is consumed by one codec write (R22). -/
def State.consumeAnswer (s : State) : State :=
  { s with answers := s.answers.tail, answersTaken := s.answersTaken + 1 }

/-- `CodecWrite(reg, val)`: one transaction on port CODEC_WR and its answer; the transaction is issued whichever
the answer is (R33, R101). -/
def codecWrite (reg : CodecReg) (val : CodecVal) (s : State) : CodecAnswer × State :=
  (s.nextAnswer, (s.emit (.codecWrite reg val)).consumeAnswer)

/-- The environment delivers a chunk of bytes in front of port RX (R18, R20). -/
def State.deliver (chunk : List Byte) (s : State) : State := { s with rx := s.rx ++ chunk }

/-- Whether RESET is asserted at this step boundary (R24). -/
def State.resetAsserted (s : State) : Bool :=
  match s.resetIn with
  | r :: _ => r
  | [] => false

/-- The step boundary is passed: the next level of RESET is the one that counts from now on (R127). -/
def State.passBoundary (s : State) : State := { s with resetIn := s.resetIn.tail }

/-- One byte is taken from port RX (R20). -/
def State.dropByte (s : State) : State := { s with rx := s.rx.tail }

/-- The byte the block takes at this boundary and the state without it. A halted block takes none (R13, R20), and
none is taken where none has arrived (R121). -/
def State.takeByte (s : State) : Option (Byte × State) :=
  if s.halted then none
  else
    match s.rx with
    | [] => none
    | b :: _ => some (b, s.passBoundary.dropByte)

-- The fatal condition and the way out of it

/-- `raise CodecWriteFailure`: `halted <- 1`, `count <- 0`; the buffer keeps its bytes, no event is emitted and
nothing is saved (R110, R111). -/
def raiseCodecWriteFailure (s : State) : State := (s.setCount 0).setHalted true

/-- Reset, from any state: `count = 0`, `halted = 0`, the buffer bytes as right after reset (log entry 1); no
output. It is the only way out of `halted` (R24, R113, R125). -/
def applyReset (s : State) : State :=
  (((s.bufWrite 0 State.reset.buf0).bufWrite 1 State.reset.buf1).bufWrite 2 State.reset.buf2 |>.setCount 0).setHalted
    false

-- The Router (R90 to R96)

/-- `Pace()`: the delay after a register write changes no state and produces no output; without time it is `skip`
(R95; log entry 9). -/
def pace (s : State) : State := s

/-- REGWR: one SYNTH write, then the pacing delay (R92). -/
def regwr (addr : SynthAddr) (val : Byte) (s : State) : State := pace (synthWrite addr val s)

/-- `VolumeOp(level)`: `CodecWrite(2, (1 << 8) | level)`, its answer returned unchanged (R94). -/
def volumeOp (level : Level) (s : State) : CodecAnswer × State := codecWrite codecVolReg (volumeValue level) s

/-- VOLSET: the volume operation; a failed write raises CodecWriteFailure and is not retried (R93, R96). -/
def volset (level : Level) (s : State) : State :=
  match volumeOp level s with
  | (.ok, s') => s'
  | (.fail, s') => raiseCodecWriteFailure s'

/-- `Route(m)`: exactly one bus write for each message (R90, R91). -/
def route (m : DecodedMessage) (s : State) : State :=
  match m with
  | .noteOn hka d1 d2 =>
    regwr (packAddr (noteOnStatusByte hka) (dataByte d1)) (packVal (noteOnStatusByte hka) (dataByte d2)) s
  | .progChange d1 => volset (volumeLevel (dataByte d1)) s

-- The Frame Decoder (R70 to R80)

/-- The message that the buffer holds whole, if any: the Note-On test first, the Program-Change test second
(R78, R79, R80). -/
def completedMessage (s : State) : Option DecodedMessage :=
  if noteonStatus s.buf0 && s.count == noteOnLen then some (.ofNoteOn s.buf0 s.buf1 s.buf2)
  else if pcStatus s.buf0 && s.count == pcLen then some (.ofProgChange s.buf1)
  else none

/-- The completion test: a whole message is routed and the count returns to 0 in the same step (R78, R79);
otherwise nothing happens (R80). -/
def completionTest (s : State) : State :=
  match completedMessage s with
  | some m => (route m s).setCount 0
  | none => s

/-- STATUS: a message in progress is dropped with an event carrying the old `buf[0]`; the byte becomes byte 0 of a
new message (R71). The completion test that follows cannot succeed at count 1 (R80). -/
def statusByte (b : Byte) (s : State) : State :=
  let s' := if inProgress s.count then s.diag (.dropIncomplete s.buf0) else s
  completionTest ((s'.bufWrite 0 b).setCount 1)

/-- DATA.ORPHAN: `skip` (R75). -/
def orphanByte (_b : Byte) (s : State) : State := s

/-- DATA.OVERFLOW: the byte is reported and discarded (R76). -/
def overflowByte (b : Byte) (s : State) : State := s.diag (.dropData b)

/-- DATA.APPEND: `buf[count] <- b; count <- count + 1`, then the completion test (R77). -/
def appendByte (b : Byte) (s : State) : State :=
  completionTest ((s.bufWrite s.count b).setCount (s.count + 1))

-- How a meaning runs

/-- A byte-level operation runs where the block is not halted and the tests of R70 select it. A halted block takes
no byte and does nothing (the last row of R84); an operation that the tests do not select is refused (log entry 6). -/
def byteOperation (i : Instr) (effect : State → State) (s : State) : Host.Outcome State Fault Refusal :=
  if s.halted then .next s
  else if i.wellFormed && i.selectedAt s.count then .next (effect s)
  else .refused .notSelected

/-- A message-level operation runs where the block is not halted; a halted block produces no output (R13). -/
def messageOperation (effect : State → State) (s : State) : Host.Outcome State Fault Refusal :=
  if s.halted then .next s else .next (effect s)

-- How a table word is placed (log entry 8)

/-- `s` about to take the last of the given bytes: the bytes before it stand in the buffer, as after the steps that
took them, the last one is next on RX, the block runs and RESET is not asserted at the next boundary. -/
def State.placeBytes (bytes : List Byte) (s : State) : State :=
  match bytes with
  | [b] => { s with halted := false, rx := b :: s.rx, resetIn := false :: s.resetIn }
  | [b0, b1] => { s with halted := false, rx := b1 :: s.rx, resetIn := false :: s.resetIn, buf0 := b0, count := 1 }
  | [b0, b1, b2] =>
    { s with halted := false, rx := b2 :: s.rx, resetIn := false :: s.resetIn, buf0 := b0, buf1 := b1, count := 2 }
  | _ => s

end Sys2Proof.Machine
end

