-- ==== Sys2Proof/Machine/DataBytes.lean ====
section
/-! DEFINITION. The meanings of the data bytes: DATA.ORPHAN, DATA.APPEND, DATA.OVERFLOW (R75 to R80). -/

namespace Sys2Proof.Machine

/-- DATA.ORPHAN: dropped silently at `count == 0` (R75). -/
def execDataOrphan (b : Byte) (s : State) : Host.Outcome State Fault Refusal :=
  byteOperation (.dataOrphan b) (orphanByte b) s

/-- DATA.APPEND: stored at `count` 1 or 2; completes a message where the completion test says so (R77 to R80). -/
def execDataAppend (b : Byte) (s : State) : Host.Outcome State Fault Refusal :=
  byteOperation (.dataAppend b) (appendByte b) s

/-- DATA.OVERFLOW: reported and discarded at `count == 3` (R76). -/
def execDataOverflow (b : Byte) (s : State) : Host.Outcome State Fault Refusal :=
  byteOperation (.dataOverflow b) (overflowByte b) s

end Sys2Proof.Machine
end

