-- ==== Sys2Proof/Machine/Messages.lean ====
section
/-! DEFINITION. The meanings of the two messages, the instructions to the Router: REGWR and VOLSET (R92, R93). They write no buffer byte and leave the count to the Decoder, which sets it to 0 afterwards (R78, R79). -/

namespace Sys2Proof.Machine

/-- REGWR a, v: one SYNTH write of `v` to `a`, then the pacing delay (R92). -/
def execRegwr (addr : SynthAddr) (val : Byte) (s : State) : Host.Outcome State Fault Refusal :=
  messageOperation (regwr addr val) s

/-- VOLSET l: one CODEC write of `0x100 | l` to register 2; a failed write halts the block (R93, R96, R110). -/
def execVolset (level : Level) (s : State) : Host.Outcome State Fault Refusal :=
  messageOperation (volset level) s

end Sys2Proof.Machine
end

