-- ==== Sys2Proof/Machine/StatusBytes.lean ====
section
/-! DEFINITION. The meanings of the status bytes: ST.NOTEON, ST.PC, ST.OTHER.1 to ST.OTHER.9 (R71 to R74). -/

namespace Sys2Proof.Machine

/-- ST.NOTEON: STATUS, nothing more at arrival (R72). -/
def execStNoteon (b : Byte) (s : State) : Host.Outcome State Fault Refusal :=
  byteOperation (.stNoteon b) (statusByte b) s

/-- ST.PC: STATUS, nothing more at arrival (R73). -/
def execStPc (b : Byte) (s : State) : Host.Outcome State Fault Refusal :=
  byteOperation (.stPc b) (statusByte b) s

/-- ST.OTHER.1, 0x80 to 0x8F: STATUS; no message ever completes behind it (R54, R74). -/
def execStOther1 (b : Byte) (s : State) : Host.Outcome State Fault Refusal :=
  byteOperation (.stOther1 b) (statusByte b) s

/-- ST.OTHER.2, 0x98 to 0x9F: STATUS; no message ever completes behind it (R54, R74). -/
def execStOther2 (b : Byte) (s : State) : Host.Outcome State Fault Refusal :=
  byteOperation (.stOther2 b) (statusByte b) s

/-- ST.OTHER.3, 0xA0 to 0xBF: STATUS; no message ever completes behind it (R54, R74). -/
def execStOther3 (b : Byte) (s : State) : Host.Outcome State Fault Refusal :=
  byteOperation (.stOther3 b) (statusByte b) s

/-- ST.OTHER.4, 0xC1: STATUS; no message ever completes behind it (R54, R74). -/
def execStOther4 (b : Byte) (s : State) : Host.Outcome State Fault Refusal :=
  byteOperation (.stOther4 b) (statusByte b) s

/-- ST.OTHER.5, 0xC2 and 0xC3: STATUS; no message ever completes behind it (R54, R74). -/
def execStOther5 (b : Byte) (s : State) : Host.Outcome State Fault Refusal :=
  byteOperation (.stOther5 b) (statusByte b) s

/-- ST.OTHER.6, 0xC4 to 0xC7: STATUS; no message ever completes behind it (R54, R74). -/
def execStOther6 (b : Byte) (s : State) : Host.Outcome State Fault Refusal :=
  byteOperation (.stOther6 b) (statusByte b) s

/-- ST.OTHER.7, 0xC8 to 0xCF: STATUS; no message ever completes behind it (R54, R74). -/
def execStOther7 (b : Byte) (s : State) : Host.Outcome State Fault Refusal :=
  byteOperation (.stOther7 b) (statusByte b) s

/-- ST.OTHER.8, 0xD0 to 0xDF: STATUS; no message ever completes behind it (R54, R74). -/
def execStOther8 (b : Byte) (s : State) : Host.Outcome State Fault Refusal :=
  byteOperation (.stOther8 b) (statusByte b) s

/-- ST.OTHER.9, 0xE0 to 0xFF: STATUS; no message ever completes behind it (R54, R74). -/
def execStOther9 (b : Byte) (s : State) : Host.Outcome State Fault Refusal :=
  byteOperation (.stOther9 b) (statusByte b) s

end Sys2Proof.Machine
end

