-- ==== Sys2Proof/Machine/Dispatch.lean ====
section
/-! DEFINITION. One arm per operation of the opcode table. -/

namespace Sys2Proof.Machine

/-- The meaning of every operation (R65). -/
def exec (i : Instr) (s : State) : Host.Outcome State Fault Refusal :=
  match i with
  | .dataOrphan b => Sys2Proof.Machine.execDataOrphan b s
  | .dataAppend b => Sys2Proof.Machine.execDataAppend b s
  | .dataOverflow b => Sys2Proof.Machine.execDataOverflow b s
  | .stNoteon b => Sys2Proof.Machine.execStNoteon b s
  | .stPc b => Sys2Proof.Machine.execStPc b s
  | .stOther1 b => Sys2Proof.Machine.execStOther1 b s
  | .stOther2 b => Sys2Proof.Machine.execStOther2 b s
  | .stOther3 b => Sys2Proof.Machine.execStOther3 b s
  | .stOther4 b => Sys2Proof.Machine.execStOther4 b s
  | .stOther5 b => Sys2Proof.Machine.execStOther5 b s
  | .stOther6 b => Sys2Proof.Machine.execStOther6 b s
  | .stOther7 b => Sys2Proof.Machine.execStOther7 b s
  | .stOther8 b => Sys2Proof.Machine.execStOther8 b s
  | .stOther9 b => Sys2Proof.Machine.execStOther9 b s
  | .regwr addr val => Sys2Proof.Machine.execRegwr addr val s
  | .volset level => Sys2Proof.Machine.execVolset level s

end Sys2Proof.Machine
end

