-- ==== Sys2Proof/Machine/BlockStep.lean ====
section
/-! DEFINITION. What one byte does (R101) and what a sequence of bytes does (R137). -/

namespace Sys2Proof.Machine

/-- `BlockStep` of R101 on the byte `b`: the operation that the decoder selects at the state's count, with its
completion and its bus write. A halted block takes no byte (R84, last row). -/
def blockStep (b : Byte) (s : State) : Host.Outcome State Fault Refusal := exec (decodeByte s.count b) s

/-- A run on a finite sequence of bytes, one `blockStep` each (R137). -/
def feed : List Byte → State → Host.Outcome State Fault Refusal
  | [], s => .next s
  | b :: bs, s =>
    match blockStep b s with
    | .next s' => feed bs s'
    | .fault r => .fault r
    | .refused r => .refused r

/-- The step's choice at a boundary: reset where RESET is asserted (R24, R127); else the next byte is taken and run;
where no byte is taken the block has no step and keeps all its state (R13, R121; log entry 5). -/
def boundaryStep (s : State) : Host.Outcome State Fault Refusal :=
  if s.resetAsserted then .next (applyReset s.passBoundary)
  else
    match s.takeByte with
    | some (b, s') => blockStep b s'
    | none => .next s.passBoundary

end Sys2Proof.Machine
end

