-- ==== Sys2Proof/Machine/Step.lean ====
section
/-! DEFINITION. The step, and where an instruction is placed to be the next one taken. -/

namespace Sys2Proof.Machine

/-- One step of the machine: one input byte, run to completion with its bus write (R5), or a reset, or a wait. -/
def step (s : State) : Host.Outcome State Fault Refusal := boundaryStep s

/-- `s` with the table word `w` of `nbits` bits placed so that the next step takes the byte that selects or
completes it (log entry 8). -/
def State.withFetchWord (s : State) (nbits w : Nat) : State := s.placeBytes (Sys2Proof.tableBytes nbits w)

end Sys2Proof.Machine
end

