-- ==== Sys2Proof/Machine/Boot.lean ====
section
/-! DEFINITION. The codec initialisation program and its run, before the block takes its first byte (R128 to R130). It is outside the block: no step of the block runs it. -/

namespace Sys2Proof.Machine

/-- One entry of the initialisation program (R129). -/
inductive InitEntry where
  /-- One unconditional `CodecWrite(reg, val)`. -/
  | write (reg : CodecReg) (val : CodecVal)
  /-- A pause of about 75 ms; without time it is `skip` (R135). -/
  | pause
deriving DecidableEq, Repr

/-- The fixed program in its order: ten writes and two pauses (R129; ten and not eleven, spec/90_conflicts.md C7). -/
def codecInitProgram : List InitEntry :=
  [.write 6 0x030, .pause, .write 0 0x017, .write 1 0x017, .write codecVolReg (volumeValue 0x39), .write 4 0x010,
   .write 5 0x000, .write 7 0x00A, .write 8 0x000, .pause, .write 9 0x001, .write 6 0x020]

/-- Runs initialisation entries on the codec port: the answer `ok` with the state after the last write, or `fail`
with the state after the write that failed, no later write being issued (R130). -/
def runInit : List InitEntry → State → CodecAnswer × State
  | [], s => (.ok, s)
  | .pause :: es, s => runInit es s
  | .write r v :: es, s =>
    match codecWrite r v s with
    | (.ok, s') => runInit es s'
    | (.fail, s') => (.fail, s')

/-- The start of the whole system: initialisation to its end, and then the block; after a failed write the block
never starts (R128, R130). -/
def systemBoot (s : State) : Host.Outcome State Fault Refusal :=
  match runInit codecInitProgram s with
  | (.ok, s') => .next s'
  | (.fail, _) => .fault .codecInitFailed

end Sys2Proof.Machine
end

