-- ==== Sys2Proof/Machine/Memory.lean ====
section
/-! DEFINITION. The two write spaces as far as the record of writes shows them (R30, R31): the last value issued to each address, as a list in one canonical form. It is computed from the outputs; the block reads none of it. -/

namespace Sys2Proof.Machine

/-- What a sequence of writes leaves: (address, value) pairs, addresses strictly rising. An address not listed has
never been written and has no value (log entry 7). -/
abbrev Memory (w : Nat) := List (Nat × BitVec w)

/-- The canonical form: addresses strictly rising. -/
abbrev Memory.wf {w : Nat} (m : Memory w) : Prop := m.Pairwise (fun x y => x.1 < y.1)

/-- The last value written to address `a`, if any. -/
def Memory.read {w : Nat} : Memory w → Nat → Option (BitVec w)
  | [], _ => none
  | (b, u) :: m, a => if a = b then some u else Memory.read m a

/-- The value `v` is written to address `a`. -/
def Memory.write {w : Nat} : Memory w → Nat → BitVec w → Memory w
  | [], a, v => [(a, v)]
  | (b, u) :: m, a, v =>
    if a < b then (a, v) :: (b, u) :: m
    else if a = b then (a, v) :: m
    else (b, u) :: Memory.write m a v

/-- One output seen from the SYNTH space: only a SYNTH write changes it (R30). -/
def synthApply (m : Memory 8) : Output → Memory 8
  | .synthWrite a v => m.write a.toNat v
  | .codecWrite _ _ => m
  | .diag _ => m

/-- One output seen from the CODEC space: only a CODEC write changes it (R30). What a failed write leaves in the
codec is unknown (R110), so this is the last value issued, not the codec's contents. -/
def codecApply (m : Memory 9) : Output → Memory 9
  | .codecWrite r v => m.write r.toNat v
  | .synthWrite _ _ => m
  | .diag _ => m

/-- The SYNTH space after a sequence of outputs (R31). -/
def synthImage (out : List Output) : Memory 8 := out.foldl synthApply []

/-- The CODEC space after a sequence of outputs (R31). -/
def codecImage (out : List Output) : Memory 9 := out.foldl codecApply []

/-- The last value issued to SYNTH address `a`, if any (R30, R31). -/
def State.synthRead (s : State) (a : SynthAddr) : Option Byte := (synthImage s.out).read a.toNat

/-- The last value issued to CODEC register `r`, if any (R30, R31). -/
def State.codecRead (s : State) (r : CodecReg) : Option CodecVal := (codecImage s.out).read r.toNat

/-- The two write spaces are in canonical form. -/
abbrev State.memoryWf (s : State) : Prop := (synthImage s.out).wf ∧ (codecImage s.out).wf

end Sys2Proof.Machine
end

