-- ==== Sys2Proof/Machine/Table.lean ====
section
/-! DEFINITION. The transition table of R84 over the sum-type state of R27, written from the table alone: the second of the two faithful state models, which the record model is held against. -/

namespace Sys2Proof.Machine

/-- The state as a sum (R27): no stale buffer byte, and `Halted` a state of its own. -/
inductive Phase where
  | idle
  | have1 (s : Byte)
  | have2 (s d1 : Byte)
  | have3 (s d1 d2 : Byte)
  | halted
deriving DecidableEq, Repr

/-- The sum-type state of a record state (R27, R84). -/
def State.phase (s : State) : Phase :=
  if s.halted then .halted
  else if s.count = 0 then .idle
  else if s.count = 1 then .have1 s.buf0
  else if s.count = 2 then .have2 s.buf0 s.buf1
  else .have3 s.buf0 s.buf1 s.buf2

/-- The three kinds of status byte in R84. -/
inductive StatusKind where
  | n
  | p
  | o
deriving DecidableEq, Repr

/-- `N` is 0x90 to 0x97, `P` is 0xC0, `O` any other status (R84). -/
def statusKind (s : Byte) : StatusKind :=
  if 0x90 ≤ s.toNat ∧ s.toNat ≤ 0x97 then .n else if s.toNat = 0xC0 then .p else .o

/-- The row of R84 for a state, an input byte and the codec's answer: the next state and the output. `none` where
the table has no row: the states it leaves out cannot be reached (R26). -/
def tableRow (p : Phase) (b : Byte) (ans : CodecAnswer) : Option (Phase × Option Output) :=
  match p, decide (0x80 ≤ b.toNat) with
  | .halted, _ => some (.halted, none)
  | .idle, false => some (.idle, none)
  | .idle, true => some (.have1 b, none)
  | .have1 s, true => some (.have1 b, some (.diag (.dropIncomplete s)))
  | .have2 s _, true => some (.have1 b, some (.diag (.dropIncomplete s)))
  | .have3 s _ _, true => some (.have1 b, some (.diag (.dropIncomplete s)))
  | .have1 s, false =>
    match statusKind s, ans with
    | .p, .ok => some (.idle, some (.codecWrite 2 (0x100 ||| b.setWidth 9)))
    | .p, .fail => some (.halted, some (.codecWrite 2 (0x100 ||| b.setWidth 9)))
    | .n, _ => some (.have2 s b, none)
    | .o, _ => some (.have2 s b, none)
  | .have2 s d1, false =>
    match statusKind s with
    | .n => some (.idle, some (.synthWrite (packAddr s d1) (packVal s b)))
    | .o => some (.have3 s d1 b, none)
    | .p => none
  | .have3 s d1 d2, false =>
    match statusKind s with
    | .o => some (.have3 s d1 d2, some (.diag (.dropData b)))
    | .n => none
    | .p => none

end Sys2Proof.Machine
end

