-- ==== Sys2Proof/Safety.lean ====
section
/-! DEFINITION. What claims are stated in: the invariant of the reachable states (R12, R26), what two states must share to be told apart by no rule (R10), and counts over a record of outputs. -/

namespace Sys2Proof.Machine

/-- The invariant of the block's reachable states: byte 0 is a status byte and the later valid bytes are data bytes
(R12 (b), (c)), no complete message sits in the buffer (R12 (d), R26), and a halted block has count 0 (R110). -/
abbrev State.Inv (s : State) : Prop :=
  (s.count ≠ 0 → isStatus s.buf0 = true) ∧
  ((s.count = 2 ∨ s.count = 3) → isStatus s.buf1 = false) ∧
  (s.count = 3 → isStatus s.buf2 = false) ∧
  (s.count = 3 → noteonStatus s.buf0 = false) ∧
  ((s.count = 2 ∨ s.count = 3) → pcStatus s.buf0 = false) ∧
  (s.halted = true → s.count = 0)

/-- Two states that differ at most in buffer bytes at or beyond the count, which no rule reads (R10). -/
structure SameButStale (s t : State) : Prop where
  count : s.count = t.count
  halted : s.halted = t.halted
  buf0 : s.count ≠ 0 → s.buf0 = t.buf0
  buf1 : s.count = 2 ∨ s.count = 3 → s.buf1 = t.buf1
  buf2 : s.count = 3 → s.buf2 = t.buf2
  rx : s.rx = t.rx
  resetIn : s.resetIn = t.resetIn
  answers : s.answers = t.answers
  answersTaken : s.answersTaken = t.answersTaken
  out : s.out = t.out

/-- Whether an output is a bus write (R38). -/
def isWrite : Output → Bool
  | .synthWrite _ _ => true
  | .codecWrite _ _ => true
  | .diag _ => false

/-- How many bus writes a record of outputs holds. -/
def writesIn (out : List Output) : Nat := out.countP isWrite

/-- How many status bytes a sequence of bytes holds. -/
def statusBytesIn (bs : List Byte) : Nat := bs.countP isStatus

/-- `n` steps of the machine, stopping at the first fault or refusal. -/
def stepN : Nat → State → Host.Outcome State Fault Refusal
  | 0, s => .next s
  | n + 1, s =>
    match step s with
    | .next s' => stepN n s'
    | .fault r => .fault r
    | .refused r => .refused r

/-- A run on bytes that arrive in chunks (R81): each chunk is delivered and followed by as many steps as it has
bytes, before the next chunk arrives. -/
def runChunks : List (List Byte) → State → Host.Outcome State Fault Refusal
  | [], s => .next s
  | chunk :: chunks, s =>
    match stepN chunk.length (s.deliver chunk) with
    | .next s' => runChunks chunks s'
    | .fault r => .fault r
    | .refused r => .refused r

/-- The next state of an outcome changed by `f`; a fault or a refusal as it is. -/
def mapNext (f : State → State) : Host.Outcome State Fault Refusal → Host.Outcome State Fault Refusal
  | .next s => .next (f s)
  | .fault r => .fault r
  | .refused r => .refused r

end Sys2Proof.Machine
end

