-- ==== Sys2Proof/Certificates/Slice0/Obligations.lean ====
section
/-! DEFINITION. The statements for the provers, each from the numbered rules of spec/ that its docstring names. -/

open Sys2Proof Sys2Proof.Machine

-- Reset

/-- R19: after reset the count is 0 and the halted latch is 0. -/
def Obligations.ResetIsEmptyAndRunning : Prop := State.reset.count = 0 ∧ State.reset.halted = false

/-- The invariant of R12 and R26 holds right after reset. -/
def Obligations.ResetMeetsInvariant : Prop := State.reset.Inv

/-- R125: reset leads to count 0 and halted 0 from any state, halted or in the middle of a message, and produces no
output. -/
def Obligations.ResetFromAnyState : Prop :=
  ∀ s : State, s.resetAsserted = true →
    ∃ t, step s = .next t ∧ t.count = 0 ∧ t.halted = false ∧ t.out = s.out

/-- The frame of reset (R6, R18, R20): the bytes in front of RX, the later levels of RESET and the codec's answers
are the environment's, and reset leaves them as they are. -/
def Obligations.ResetLeavesTheEnvironment : Prop :=
  ∀ s t : State, s.resetAsserted = true → step s = .next t →
    t.rx = s.rx ∧ t.resetIn = s.resetIn.tail ∧ t.answers = s.answers ∧ t.answersTaken = s.answersTaken

-- The byte-level operations

/-- R71: STATUS, for each of the eleven kinds of status byte, at every count and whatever the byte is. -/
def Obligations.StatusByteStartsMessage : Prop :=
  ∀ (s : State) (b : Byte), s.halted = false →
    let t : State := { s with
      buf0 := b, count := 1,
      out := if s.count = 0 then s.out else s.out ++ [.diag (.dropIncomplete s.buf0)] }
    (0x90 ≤ b.toNat → b.toNat ≤ 0x97 → exec (.stNoteon b) s = .next t) ∧
    (b.toNat = 0xC0 → exec (.stPc b) s = .next t) ∧
    (0x80 ≤ b.toNat → b.toNat ≤ 0x8F → exec (.stOther1 b) s = .next t) ∧
    (0x98 ≤ b.toNat → b.toNat ≤ 0x9F → exec (.stOther2 b) s = .next t) ∧
    (0xA0 ≤ b.toNat → b.toNat ≤ 0xBF → exec (.stOther3 b) s = .next t) ∧
    (b.toNat = 0xC1 → exec (.stOther4 b) s = .next t) ∧
    (0xC2 ≤ b.toNat → b.toNat ≤ 0xC3 → exec (.stOther5 b) s = .next t) ∧
    (0xC4 ≤ b.toNat → b.toNat ≤ 0xC7 → exec (.stOther6 b) s = .next t) ∧
    (0xC8 ≤ b.toNat → b.toNat ≤ 0xCF → exec (.stOther7 b) s = .next t) ∧
    (0xD0 ≤ b.toNat → b.toNat ≤ 0xDF → exec (.stOther8 b) s = .next t) ∧
    (0xE0 ≤ b.toNat → exec (.stOther9 b) s = .next t)

/-- R75: a data byte at count 0 changes nothing and is reported nowhere. -/
def Obligations.OrphanByteIsDroppedSilently : Prop :=
  ∀ (s : State) (b : Byte), s.halted = false → s.count = 0 → b.toNat < 0x80 → exec (.dataOrphan b) s = .next s

/-- R76: a data byte at count 3 is reported and discarded; the count and the buffer stay. -/
def Obligations.OverflowByteIsReported : Prop :=
  ∀ (s : State) (b : Byte), s.halted = false → s.count = 3 → b.toNat < 0x80 →
    exec (.dataOverflow b) s = .next { s with out := s.out ++ [.diag (.dropData b)] }

/-- R77 with R80: a data byte at count 1 or 2 that completes no message is stored at index `count`. -/
def Obligations.AppendedByteIsStored : Prop :=
  ∀ (s : State) (b : Byte), s.halted = false → b.toNat < 0x80 →
    (s.count = 1 → s.buf0 ≠ 0xC0 → exec (.dataAppend b) s = .next { s with buf1 := b, count := 2 }) ∧
    (s.count = 2 → ¬(0x90 ≤ s.buf0.toNat ∧ s.buf0.toNat ≤ 0x97) →
      exec (.dataAppend b) s = .next { s with buf2 := b, count := 3 })

/-- R78 with R92: the third byte of a message whose status is 0x90 to 0x97 issues its SYNTH write and empties the
buffer in the same step. -/
def Obligations.ThirdByteCompletesRegisterWrite : Prop :=
  ∀ (s : State) (b : Byte), s.halted = false → b.toNat < 0x80 → s.count = 2 →
    0x90 ≤ s.buf0.toNat → s.buf0.toNat ≤ 0x97 →
    exec (.dataAppend b) s = .next { s with
      buf2 := b, count := 0,
      out := s.out ++ [.synthWrite (((s.buf0 &&& 0x03).setWidth 9 <<< 7) ||| (s.buf1 &&& 0x7F).setWidth 9)
        (((s.buf0 &&& 0x04) <<< 5) ||| (b &&& 0x7F))] }

/-- R79 with R93 and R110: the byte after 0xC0 issues its CODEC write and empties the buffer; where the adapter
answers `failure` the block is halted as well. The answer is consumed (log entry 4). -/
def Obligations.SecondByteCompletesVolumeWrite : Prop :=
  ∀ (s : State) (b : Byte), s.halted = false → b.toNat < 0x80 → s.count = 1 → s.buf0 = 0xC0 →
    let t : State := { s with
      buf1 := b, count := 0, answers := s.answers.tail, answersTaken := s.answersTaken + 1,
      out := s.out ++ [.codecWrite 2 (0x100 ||| (b &&& 0x7F).setWidth 9)] }
    (s.nextAnswer = .ok → exec (.dataAppend b) s = .next t) ∧
    (s.nextAnswer = .fail → exec (.dataAppend b) s = .next { t with halted := true })

/-- The model's choice (log entry 6; R70 to R77 give no effect there): a running block refuses a byte-level operation exactly where its byte is
outside its row or the count does not select it. -/
def Obligations.UnselectedOperationIsRefused : Prop :=
  ∀ (i : Instr) (s : State), s.halted = false →
    (exec i s = .refused .notSelected ↔ ¬(i.wellFormed = true ∧ i.selectedAt s.count = true))

-- The message-level operations

/-- R92: the message `b0 b1 b2` is REGWR with the packed operands, and REGWR issues one SYNTH write and writes no
state of the block. -/
def Obligations.RegwrIssuesOneSynthWrite : Prop :=
  (∀ (c : Count) (b0 b1 b2 : Byte), 0x90 ≤ b0.toNat → b0.toNat ≤ 0x97 → b1.toNat < 0x80 → b2.toNat < 0x80 →
    decode c [b0, b1, b2] = .ok (.regwr (((b0 &&& 0x03).setWidth 9 <<< 7) ||| (b1 &&& 0x7F).setWidth 9)
      (((b0 &&& 0x04) <<< 5) ||| (b2 &&& 0x7F)))) ∧
  (∀ (s : State) (a : SynthAddr) (v : Byte), s.halted = false →
    exec (.regwr a v) s = .next { s with out := s.out ++ [.synthWrite a v] })

/-- R93 with R94 and R96: the message `0xC0 b1` is VOLSET with its level, and VOLSET issues one CODEC write of
`0x100 | level` to register 2; a failed write raises CodecWriteFailure. -/
def Obligations.VolsetIssuesOneCodecWrite : Prop :=
  (∀ (c : Count) (b1 : Byte), b1.toNat < 0x80 →
    decode c [0xC0, b1] = .ok (.volset ((b1 &&& 0x7F).setWidth 7))) ∧
  (∀ (s : State) (l : Level), s.halted = false →
    let t : State := { s with
      answers := s.answers.tail, answersTaken := s.answersTaken + 1,
      out := s.out ++ [.codecWrite 2 (0x100 ||| l.setWidth 9)] }
    (s.nextAnswer = .ok → exec (.volset l) s = .next t) ∧
    (s.nextAnswer = .fail → exec (.volset l) s = .next { t with count := 0, halted := true }))

/-- R90 and R101: the byte that completes a message does what the message's own operation does on the state with
that byte appended, and then sets the count to 0. -/
def Obligations.CompletingByteRunsItsMessage : Prop :=
  ∀ (s : State) (b : Byte), s.Inv → s.halted = false → b.toNat < 0x80 →
    (s.count = 2 → noteonStatus s.buf0 = true →
      ∃ i, decode 0 [s.buf0, s.buf1, b] = .ok i ∧
        blockStep b s = mapNext (State.setCount 0) (exec i { s with buf2 := b, count := 3 })) ∧
    (s.count = 1 → pcStatus s.buf0 = true →
      ∃ i, decode 0 [s.buf0, b] = .ok i ∧
        blockStep b s = mapNext (State.setCount 0) (exec i { s with buf1 := b, count := 2 }))

/-- R83 and R91: a message that is not in the byte ranges of its form cannot be written, and the Decoder hands the
Router exactly the bytes it has buffered. -/
def Obligations.RouterReceivesOnlyMessages : Prop :=
  (∀ m : DecodedMessage, messageInRange m.bytes = true) ∧
  (∀ (s : State) (b : Byte) (m : DecodedMessage), s.Inv → s.halted = false → b.toNat < 0x80 →
    (s.count = 1 ∨ s.count = 2) →
    completedMessage ((s.bufWrite s.count b).setCount (s.count + 1)) = some m →
    m.bytes = if s.count = 1 then [s.buf0, b] else [s.buf0, s.buf1, b])

-- The halted latch

/-- R110: a failed VOLSET sets `halted` and the count to 0 and emits nothing but its write; a halted block then
takes no byte and produces no output until reset. -/
def Obligations.FailedCodecWriteHaltsTheBlock : Prop :=
  (∀ (s : State) (l : Level), s.halted = false → s.nextAnswer = .fail →
    ∃ t, exec (.volset l) s = .next t ∧ t.halted = true ∧ t.count = 0 ∧
      t.buf0 = s.buf0 ∧ t.buf1 = s.buf1 ∧ t.buf2 = s.buf2 ∧
      t.out = s.out ++ [.codecWrite 2 (0x100 ||| l.setWidth 9)]) ∧
  (∀ s t : State, s.halted = true → s.resetAsserted = false → step s = .next t →
    t.halted = true ∧ t.rx = s.rx ∧ t.out = s.out)

/-- The last row of R84: no operation does anything to a halted block. -/
def Obligations.HaltedBlockDoesNothing : Prop := ∀ (i : Instr) (s : State), s.halted = true → exec i s = .next s

/-- R13: `halted` is 0 after reset; a step of a running block sets it exactly where its output is a codec write
answered `failure`; only a reset clears it; and while it is 1 no byte is taken and nothing is output. -/
def Obligations.HaltedLatchChangesOnlyAsSaid : Prop :=
  State.reset.halted = false ∧
  (∀ s t : State, step s = .next t → s.halted = false →
    (t.halted = true ↔ s.nextAnswer = .fail ∧ ∃ r v, t.out = s.out ++ [.codecWrite r v])) ∧
  (∀ s t : State, step s = .next t → s.halted = true → t.halted = false → s.resetAsserted = true) ∧
  (∀ s t : State, step s = .next t → s.halted = true → t.rx = s.rx ∧ t.out = s.out)

/-- R13 over any number of steps: without a reset a halted block keeps its whole state, the bytes waiting in front
of RX and the outputs so far included. That each such step is a next state which only passes the reset boundary is
the model's choice (log entry 5). -/
def Obligations.HaltedForeverWithoutReset : Prop :=
  ∀ (n : Nat) (s : State), s.halted = true → (∀ r ∈ s.resetIn, r = false) →
    stepN n s = .next { s with resetIn := s.resetIn.drop n }

/-- Property Q9: where every codec write is answered `success`, no sequence of bytes halts the block. -/
def Obligations.SuccessfulAnswersNeverHalt : Prop :=
  ∀ (bs : List Byte) (s t : State), s.halted = false → bs.length ≤ s.answers.length →
    (∀ a ∈ s.answers, a = .ok) → feed bs s = .next t → t.halted = false

-- The step

/-- Where a byte is taken, the step is the meaning of the operation that the byte decodes to, on the state without
that byte and past the reset boundary. -/
def Obligations.StepRunsDecodedByte : Prop :=
  ∀ (s : State) (b : Byte) (rest : List Byte) (i : Instr), s.resetAsserted = false → s.halted = false →
    s.rx = b :: rest → decode s.count [b] = .ok i → i.wellFormed = true →
    step s = exec i { s with rx := rest, resetIn := s.resetIn.tail }

/-- R121: while no byte is offered the block keeps all its state. That the wait is a step which only passes the
reset boundary is the model's choice (log entry 5). -/
def Obligations.WaitingKeepsAllState : Prop :=
  ∀ s : State, s.rx = [] → s.resetAsserted = false → step s = .next { s with resetIn := s.resetIn.tail }

/-- R88: no state and no byte makes the block stuck: every step ends in a next state. That a step with no byte to
take is one too is the model's choice (log entry 5). -/
def Obligations.StepAlwaysEndsInNextState : Prop := ∀ s : State, ∃ t, step s = .next t

/-- R12 and R26: every step from a state that meets the invariant leads to one that meets it. -/
def Obligations.StepKeepsInvariant : Prop := ∀ s t : State, s.Inv → step s = .next t → t.Inv

/-- R87: a step adds at most one output, after all earlier ones. -/
def Obligations.AtMostOneOutputPerStep : Prop :=
  ∀ s t : State, step s = .next t → t.out = s.out ∨ ∃ o, t.out = s.out ++ [o]

/-- R39: over any number of steps the outputs keep their order; later steps only add outputs at the end. -/
def Obligations.OutputsKeepTheirOrder : Prop :=
  ∀ (n : Nat) (s t : State), stepN n s = .next t → s.out <+: t.out

/-- R84, R88 and R101: from a state that meets the invariant the record model does on every byte exactly what the
transition table says of the sum-type state, and the table has a row for it. -/
def Obligations.StepRefinesTransitionTable : Prop :=
  ∀ (s : State) (b : Byte) (rest : List Byte), s.Inv → s.resetAsserted = false → s.halted = false →
    s.rx = b :: rest →
    ∃ p o t, tableRow s.phase b s.nextAnswer = some (p, o) ∧ step s = .next t ∧
      t.phase = p ∧ t.out = s.out ++ o.toList ∧ t.rx = rest ∧ t.Inv

/-- R26, with `halted == 0`: every running state of the invariant is reached from reset, up to stale buffer bytes. -/
def Obligations.EveryRunningStateIsReachedUpToStaleBytes : Prop :=
  ∀ s : State, s.Inv → s.halted = false → ∃ bs t, feed bs State.reset = .next t ∧ t.phase = s.phase

/-- R10: no rule reads a buffer byte at or beyond the count: two states that differ only there step to states that
differ only there, with the same outputs. -/
def Obligations.StaleBytesAreNeverRead : Prop :=
  ∀ s t s' t' : State, SameButStale s t → step s = .next s' → step t = .next t' → SameButStale s' t'

/-- R6: the codec's answer is read only by a step whose output is a codec write: any other step is the same
whatever the answers are, and consumes none. -/
def Obligations.AnswersAreReadOnlyByCodecWrites : Prop :=
  ∀ (s t : State) (as : List CodecAnswer) (n : Nat), step s = .next t →
    (∀ r v, t.out ≠ s.out ++ [.codecWrite r v]) →
    step { s with answers := as, answersTaken := n } = .next { t with answers := as, answersTaken := n }

/-- R41: no operation changes what the block is yet to receive. -/
def Obligations.OperationsLeaveTheInputAlone : Prop :=
  ∀ (i : Instr) (s t : State), exec i s = .next t → t.rx = s.rx ∧ t.resetIn = s.resetIn

-- Sequences of bytes

/-- R137: where a run of bytes does not halt, the machine's steps over those bytes waiting on RX, with no reset, are
that run. -/
def Obligations.StepsOverReceivedBytesAreTheRun : Prop :=
  ∀ (bs : List Byte) (s t : State), feed bs { s with rx := [], resetIn := [] } = .next t → t.halted = false →
    stepN bs.length { s with rx := bs, resetIn := [] } = .next t

/-- R81: however the stream is cut into chunks, delivering and processing one chunk after the other is the same run,
with the same state and the same sequence of outputs, as delivering all the bytes at once; and a message that waits
for the next chunk is kept for as long as it takes, there being no timeout. -/
def Obligations.ChunkBoundariesAreInvisible : Prop :=
  (∀ (chunks : List (List Byte)) (s : State), runChunks chunks s = runChunks [chunks.flatten] s) ∧
  (∀ (n : Nat) (s t : State), s.rx = [] → (∀ r ∈ s.resetIn, r = false) → stepN n s = .next t →
    t.buf0 = s.buf0 ∧ t.buf1 = s.buf1 ∧ t.buf2 = s.buf2 ∧ t.count = s.count ∧ t.halted = s.halted ∧ t.out = s.out)

/-- Property Q2: the bus writes of a run are at most its status bytes, and one more where the run began inside a
message. -/
def Obligations.WritesAreBoundedByStatusBytes : Prop :=
  ∀ (bs : List Byte) (s t : State), feed bs s = .next t →
    writesIn t.out ≤ writesIn s.out + statusBytesIn bs + (if s.count = 0 then 0 else 1)

/-- R64 with R82: from any running state, in the middle of any message, the bytes of REGWR drop the message in
progress with one event and then issue exactly their write. -/
def Obligations.RegisterWriteAlwaysArrives : Prop :=
  ∀ (s : State) (a : SynthAddr) (v : Byte), s.halted = false →
    ∃ t, feed (encode (.regwr a v)) s = .next t ∧ t.count = 0 ∧ t.halted = false ∧
      t.out = s.out ++ (if s.count = 0 then [] else [.diag (.dropIncomplete s.buf0)]) ++ [.synthWrite a v]

/-- R64 with R82: the same for VOLSET, whose write is issued whichever the codec's answer is. -/
def Obligations.VolumeWriteAlwaysArrives : Prop :=
  ∀ (s : State) (l : Level), s.halted = false →
    ∃ t, feed (encode (.volset l)) s = .next t ∧ t.count = 0 ∧ (t.halted = true ↔ s.nextAnswer = .fail) ∧
      t.out = s.out ++ (if s.count = 0 then [] else [.diag (.dropIncomplete s.buf0)]) ++
        [.codecWrite 2 (0x100 ||| l.setWidth 9)]

/-- R61 with R75: at count 0 any sequence of data bytes is ignored: there is no running status. -/
def Obligations.DataWithoutStatusIsIgnored : Prop :=
  ∀ (ds : List Byte) (s : State), s.count = 0 → (∀ d ∈ ds, d.toNat < 0x80) → feed ds s = .next s

/-- R107: DROP_DATA is raised exactly by a data byte at count 3, once for each such byte, the buffer and the count
staying as they are. -/
def Obligations.DropDataExactlyWhileFull : Prop :=
  (∀ (s t : State) (b : Byte), s.halted = false → blockStep b s = .next t →
    ((∃ d, t.out = s.out ++ [.diag (.dropData d)]) ↔ (b.toNat < 0x80 ∧ s.count = 3))) ∧
  (∀ (ds : List Byte) (s : State), s.halted = false → s.count = 3 → (∀ d ∈ ds, d.toNat < 0x80) →
    feed ds s = .next { s with out := s.out ++ ds.map (fun d => .diag (.dropData d)) })

/-- R106: DROP_INCOMPLETE is raised exactly by a status byte at count 1, 2 or 3; it carries the old `buf[0]`, a
status byte, and the new status byte is accepted all the same. -/
def Obligations.DropIncompleteExactlyInsideMessage : Prop :=
  ∀ (s t : State) (b : Byte), s.Inv → s.halted = false → blockStep b s = .next t →
    ((∃ p, t.out = s.out ++ [.diag (.dropIncomplete p)]) ↔ (0x80 ≤ b.toNat ∧ s.count ≠ 0)) ∧
    (∀ p, t.out = s.out ++ [.diag (.dropIncomplete p)] →
      p = s.buf0 ∧ isStatus p = true ∧ t.buf0 = b ∧ t.count = 1)

/-- R54: behind an unrecognised status byte no sequence of data bytes causes a write, halts the block or ends the
message. -/
def Obligations.UnrecognisedStatusNeverWrites : Prop :=
  ∀ (ds : List Byte) (s t : State), s.halted = false → s.count ≠ 0 →
    noteonStatus s.buf0 = false → pcStatus s.buf0 = false → (∀ d ∈ ds, d.toNat < 0x80) → feed ds s = .next t →
    writesIn t.out = writesIn s.out ∧ t.halted = false ∧ t.count ≠ 0 ∧ t.buf0 = s.buf0

-- Encoding

/-- Decoding the bytes of an operation gives it back, for every well-formed operation with every operand, at every
count that selects it (R51 to R53, R64, R65). -/
def Obligations.DecodingInvertsEncoding : Prop :=
  ∀ (i : Instr) (c : Count), i.wellFormed = true → i.selectedAt c = true → decode c (encode i) = .ok i

/-- Whatever the decoder reads from any bytes is well formed, selected at that count, and encoded by those bytes
(R51 to R53, R64, R65). -/
def Obligations.EncodingInvertsDecoding : Prop :=
  ∀ (c : Count) (bs : List Byte) (i : Instr), decode c bs = .ok i →
    i.wellFormed = true ∧ i.selectedAt c = true ∧ encode i = bs

/-- A few table words written out bit by bit from the encodings of R51 to R53 decode, at count 0, to their
operations. That a table word is decoded at count 0, where a data byte is DATA.ORPHAN, is the model's choice (log
entry 8). -/
def Obligations.WrittenWordsDecode : Prop :=
  decodeTableWord 8 0b10010011 = some (.stNoteon 0x93) ∧
  decodeTableWord 8 0b11000000 = some (.stPc 0xC0) ∧
  decodeTableWord 8 0b10011000 = some (.stOther2 0x98) ∧
  decodeTableWord 8 0b00111100 = some (.dataOrphan 0x3C) ∧
  decodeTableWord 24 0b100101100000010100000001 = some (.regwr 0x105 0x81) ∧
  decodeTableWord 16 0b1100000001000000 = some (.volset 0x40)

/-- R56, R57 and R58: the packed fields by their formulas and bit by bit, and the codec register they go to. -/
def Obligations.PackedFieldsBitByBit : Prop :=
  ∀ b0 b1 b2 : Byte,
    (packAddr b0 b1 = ((b0 &&& 0x03).setWidth 9 <<< 7) ||| (b1 &&& 0x7F).setWidth 9 ∧
      (packAddr b0 b1).getLsbD 8 = b0.getLsbD 1 ∧ (packAddr b0 b1).getLsbD 7 = b0.getLsbD 0 ∧
      ∀ i, i < 7 → (packAddr b0 b1).getLsbD i = b1.getLsbD i) ∧
    (packVal b0 b2 = (((b0 &&& 0x04) <<< 5) ||| (b2 &&& 0x7F)) ∧
      (packVal b0 b2).getLsbD 7 = b0.getLsbD 2 ∧ ∀ i, i < 7 → (packVal b0 b2).getLsbD i = b2.getLsbD i) ∧
    (packVol b1 = (1 <<< 8 ||| (b1 &&& 0x7F).setWidth 9) ∧ codecVolReg = 2 ∧
      (packVol b1).getLsbD 8 = true ∧ (packVol b1).getLsbD 7 = false ∧
      ∀ i, i < 7 → (packVol b1).getLsbD i = b1.getLsbD i)

/-- R35: every (address, value) pair is written by exactly one Note-On-shaped message, and the codec values are
exactly 0x100 to 0x17F. -/
def Obligations.EveryWriteHasExactlyOneMessage : Prop :=
  (∀ (a : SynthAddr) (v : Byte), ∃ b0 b1 b2 : Byte,
    messageInRange [b0, b1, b2] = true ∧ packAddr b0 b1 = a ∧ packVal b0 b2 = v ∧
    ∀ c0 c1 c2 : Byte, messageInRange [c0, c1, c2] = true → packAddr c0 c1 = a → packVal c0 c2 = v →
      c0 = b0 ∧ c1 = b1 ∧ c2 = b2) ∧
  (∀ v : CodecVal, (∃ b1 : Byte, b1.toNat < 0x80 ∧ packVol b1 = v) ↔ (0x100 ≤ v.toNat ∧ v.toNat ≤ 0x17F))

-- The write spaces

/-- R35 and property Q4: a step writes no codec register but 2, and only values 0x100 to 0x17F. -/
def Obligations.OnlyTheVolumeRegisterIsWritten : Prop :=
  ∀ (s t : State) (r : CodecReg) (v : CodecVal), step s = .next t → t.out = s.out ++ [.codecWrite r v] →
    r = 2 ∧ 0x100 ≤ v.toNat ∧ v.toNat ≤ 0x17F

/-- The frame of the write spaces: REGWR changes the recorded value of its own SYNTH address only, VOLSET that of
CODEC register 2 only, a data byte only what the message it completes writes, and every other operation none. -/
def Obligations.WriteSpacesChangeOnlyWhereStored : Prop :=
  ∀ (i : Instr) (s t : State) (a : SynthAddr) (r : CodecReg), exec i s = .next t →
    match i with
    | .regwr a0 _ => (a ≠ a0 → t.synthRead a = s.synthRead a) ∧ t.codecRead r = s.codecRead r
    | .volset _ => t.synthRead a = s.synthRead a ∧ (r ≠ 2 → t.codecRead r = s.codecRead r)
    | .dataAppend _ =>
      (¬(s.count = 2 ∧ noteonStatus s.buf0 = true ∧ a = packAddr s.buf0 s.buf1) → t.synthRead a = s.synthRead a) ∧
      (¬(s.count = 1 ∧ pcStatus s.buf0 = true ∧ r = 2) → t.codecRead r = s.codecRead r)
    | .dataOrphan _ | .dataOverflow _ | .stNoteon _ | .stPc _ | .stOther1 _ | .stOther2 _ | .stOther3 _
    | .stOther4 _ | .stOther5 _ | .stOther6 _ | .stOther7 _ | .stOther8 _ | .stOther9 _ =>
      t.synthRead a = s.synthRead a ∧ t.codecRead r = s.codecRead r

/-- R30 to R33: the value of a write is the last value issued to its address right after it. -/
def Obligations.WriteIsTheLastValueIssued : Prop :=
  ∀ (s t : State), s.halted = false →
    (∀ (a : SynthAddr) (v : Byte), exec (.regwr a v) s = .next t → t.synthRead a = some v) ∧
    (∀ l : Level, exec (.volset l) s = .next t → t.codecRead 2 = some (0x100 ||| l.setWidth 9)) ∧
    (∀ b : Byte, s.count = 2 → noteonStatus s.buf0 = true → exec (.dataAppend b) s = .next t →
      t.synthRead (packAddr s.buf0 s.buf1) = some (packVal s.buf0 b))

-- The initialisation program, outside the block

/-- R129: the initialisation program with its pauses, and the ten writes it issues in the fixed order where each is
answered `success`. -/
def Obligations.InitialisationIssuesTenWrites : Prop :=
  codecInitProgram =
    [.write 6 0x030, .pause, .write 0 0x017, .write 1 0x017, .write 2 (volumeValue 0b0111001), .write 4 0x010,
      .write 5 0x000, .write 7 0x00A, .write 8 0x000, .pause, .write 9 0x001, .write 6 0x020] ∧
  ∀ s : State, s.answers.take 10 = List.replicate 10 .ok →
    runInit codecInitProgram s = (.ok, { s with
      answers := s.answers.drop 10, answersTaken := s.answersTaken + 10,
      out := s.out ++ [.codecWrite 6 0x030, .codecWrite 0 0x017, .codecWrite 1 0x017, .codecWrite 2 0x139,
        .codecWrite 4 0x010, .codecWrite 5 0x000, .codecWrite 7 0x00A, .codecWrite 8 0x000, .codecWrite 9 0x001,
        .codecWrite 6 0x020] })

/-- R130: where write number `k + 1` of the initialisation is the first to fail, the writes up to it have been
issued and none after, and the block is never started. -/
def Obligations.FailedInitialisationNeverStarts : Prop :=
  ∀ (k : Nat) (s : State), k < 10 → s.answers.take (k + 1) = List.replicate k .ok ++ [.fail] →
    (runInit codecInitProgram s).2.out = s.out ++
      [Output.codecWrite 6 0x030, .codecWrite 0 0x017, .codecWrite 1 0x017, .codecWrite 2 0x139,
        .codecWrite 4 0x010, .codecWrite 5 0x000, .codecWrite 7 0x00A, .codecWrite 8 0x000, .codecWrite 9 0x001,
        .codecWrite 6 0x020].take (k + 1) ∧
    systemBoot s = .fault .codecInitFailed
end

