-- ==== Sys2Proof/Laws/Decode.lean ====
section
/-! SUPPORT. What the decoder answers: every byte at every count is one well-formed operation that its own tests select, and that operation carries the byte. -/

namespace Sys2Proof

open Sys2Proof.Machine

/-- The eleven forms of a status byte (R51). -/
def IsStatusForm (b : Byte) (i : Instr) : Prop :=
  i = .stNoteon b ∨ i = .stPc b ∨ i = .stOther1 b ∨ i = .stOther2 b ∨ i = .stOther3 b ∨ i = .stOther4 b ∨
  i = .stOther5 b ∨ i = .stOther6 b ∨ i = .stOther7 b ∨ i = .stOther8 b ∨ i = .stOther9 b

/-- A property of all 256 bytes is checked byte by byte. -/
theorem forall_byte {p : Byte → Bool} (h : (List.range 256).all (fun n => p (BitVec.ofNat 8 n)) = true) (b : Byte) :
    p b = true := by
  have hb := List.all_eq_true.mp h b.toNat (List.mem_range.mpr b.isLt)
  simpa using hb

-- The predicates as ranges of values (R50, R51)

theorem isStatus_iff (b : Byte) : isStatus b = true ↔ 0x80 ≤ b.toNat := by
  have key := forall_byte (p := fun b => isStatus b == decide (0x80 ≤ b.toNat)) (by decide +kernel) b
  simp [eq_of_beq key]

theorem isData_iff (b : Byte) : isStatus b = false ↔ b.toNat < 0x80 := by
  have key := isStatus_iff b
  cases h : isStatus b <;> simp [h] at key ⊢ <;> omega

theorem noteonStatus_iff (b : Byte) : noteonStatus b = true ↔ 0x90 ≤ b.toNat ∧ b.toNat ≤ 0x97 := by
  have key := forall_byte (p := fun b => noteonStatus b == decide (0x90 ≤ b.toNat ∧ b.toNat ≤ 0x97))
    (by decide +kernel) b
  simp [eq_of_beq key]

theorem pcStatus_iff (b : Byte) : pcStatus b = true ↔ b = 0xC0 := by simp [pcStatus, pcStatusByte]

/-- The two completion tests cannot both hold (R78). -/
theorem noteonStatus_of_pcStatus {b : Byte} (h : pcStatus b = true) : noteonStatus b = false := by
  rw [(pcStatus_iff b).mp h]; decide

theorem decodeStatus_form (b : Byte) : IsStatusForm b (decodeStatus b) := by
  unfold decodeStatus IsStatusForm
  repeat' split
  all_goals simp

theorem decodeStatus_wellFormed (b : Byte) (h : isStatus b = true) : (decodeStatus b).wellFormed = true := by
  have key := forall_byte (p := fun b => !isStatus b || (decodeStatus b).wellFormed) (by decide +kernel) b
  simpa [h] using key

theorem selectedAt_of_status {b : Byte} {i : Instr} (h : IsStatusForm b i) (c : Count) : i.selectedAt c = true := by
  rcases h with h | h | h | h | h | h | h | h | h | h | h <;> subst h <;> rfl

theorem dataWellFormed_iff (b : Byte) : (b &&& 0x80 == 0x00) = !isStatus b := by
  have key := forall_byte (p := fun b => (b &&& 0x80 == 0x00) == !isStatus b) (by decide +kernel) b
  exact eq_of_beq key

/-- The decoder's answer for a data byte at each count (R70). -/
theorem decodeByte_data {b : Byte} (h : isStatus b = false) (c : Count) :
    decodeByte c b = if c = 3 then .dataOverflow b else if c = 0 then .dataOrphan b else .dataAppend b := by
  simp [decodeByte, h, isFull, bufSize]

theorem decodeByte_status {b : Byte} (h : isStatus b = true) (c : Count) : decodeByte c b = decodeStatus b := by
  simp [decodeByte, h]

-- A message's payload bits and the bytes they came from (R52, R53, R59)

/-- The address packer reads only payload bits of its two bytes (R56). -/
@[simp] theorem packAddr_payload (b0 b1 : Byte) :
    packAddr (noteOnStatusByte (b0.setWidth 3)) (dataByte (b1.setWidth 7)) = packAddr b0 b1 := by
  apply BitVec.eq_of_getLsbD_eq
  intro i hi
  simp only [packAddr, noteOnStatusByte, noteOnMatch, dataByte, addrHiMask, addrHiShift, dataMask]
  interval_cases i <;> simp

/-- The value packer reads only payload bits of its two bytes (R57). -/
@[simp] theorem packVal_payload (b0 b2 : Byte) :
    packVal (noteOnStatusByte (b0.setWidth 3)) (dataByte (b2.setWidth 7)) = packVal b0 b2 := by
  apply BitVec.eq_of_getLsbD_eq
  intro i hi
  simp only [packVal, noteOnStatusByte, noteOnMatch, dataByte, valHiMask, valHiShift, dataMask]
  interval_cases i <;> simp

/-- The level is the payload of its byte (R58). -/
@[simp] theorem volumeLevel_payload (b1 : Byte) : volumeLevel (dataByte (b1.setWidth 7)) = volumeLevel b1 := by
  apply BitVec.eq_of_getLsbD_eq
  intro i hi
  simp only [volumeLevel, dataByte, dataMask]
  interval_cases i <;> simp

/-- The operation of the message of three bytes is REGWR of their packed fields (R92). -/
@[simp] theorem decodeMessage_ofNoteOn (b0 b1 b2 : Byte) :
    decodeMessage (.ofNoteOn b0 b1 b2) = .regwr (packAddr b0 b1) (packVal b0 b2) := by
  simp [decodeMessage, DecodedMessage.ofNoteOn]

/-- The operation of the message of two bytes is VOLSET of its level (R93). -/
@[simp] theorem decodeMessage_ofProgChange (b1 : Byte) :
    decodeMessage (.ofProgChange b1) = .volset (volumeLevel b1) := by
  simp [decodeMessage, DecodedMessage.ofProgChange]

/-- A data byte is its own payload (R50). -/
theorem dataByte_payload {b : Byte} (h : isStatus b = false) : dataByte (b.setWidth 7) = b := by
  have key := forall_byte (p := fun b => isStatus b || (dataByte (b.setWidth 7) == b)) (by decide +kernel) b
  simpa [h] using key

/-- A Note-On-shaped status byte is `10010` and its payload (R52). -/
theorem noteOnStatusByte_payload {b : Byte} (h : noteonStatus b = true) : noteOnStatusByte (b.setWidth 3) = b := by
  have key := forall_byte (p := fun b => !noteonStatus b || (noteOnStatusByte (b.setWidth 3) == b))
    (by decide +kernel) b
  simpa [h] using key

theorem count_cases (c : Count) : c = 0 ∨ c = 1 ∨ c = 2 ∨ c = 3 := by
  revert c; decide

/-- Every byte at every count decodes to a well-formed operation. -/
theorem decodeByte_wellFormed (c : Count) (b : Byte) : (decodeByte c b).wellFormed = true := by
  cases h : isStatus b with
  | true => rw [decodeByte_status h]; exact decodeStatus_wellFormed b h
  | false =>
    have hd : (b &&& 0x80 == 0x00) = true := by rw [dataWellFormed_iff, h]; rfl
    rw [decodeByte_data h]
    split
    · exact hd
    · split <;> exact hd

/-- Every byte at every count decodes to an operation that the tests of R70 select there. -/
theorem decodeByte_selectedAt (c : Count) (b : Byte) : (decodeByte c b).selectedAt c = true := by
  cases h : isStatus b with
  | true => rw [decodeByte_status h]; exact selectedAt_of_status (decodeStatus_form b) c
  | false =>
    rw [decodeByte_data h]
    rcases count_cases c with hc | hc | hc | hc <;> subst hc <;> rfl

/-- A form of a status byte that is well formed carries a status byte. -/
theorem isStatus_of_form {b : Byte} {i : Instr} (h : IsStatusForm b i) (hw : i.wellFormed = true) :
    isStatus b = true := by
  have key := forall_byte (p := fun b =>
      isStatus b ||
        !((Instr.stNoteon b).wellFormed || (Instr.stPc b).wellFormed || (Instr.stOther1 b).wellFormed ||
          (Instr.stOther2 b).wellFormed || (Instr.stOther3 b).wellFormed || (Instr.stOther4 b).wellFormed ||
          (Instr.stOther5 b).wellFormed || (Instr.stOther6 b).wellFormed || (Instr.stOther7 b).wellFormed ||
          (Instr.stOther8 b).wellFormed || (Instr.stOther9 b).wellFormed)) (by decide +kernel) b
  rcases h with h | h | h | h | h | h | h | h | h | h | h <;> subst h <;> simp [hw] at key <;> exact key

end Sys2Proof
end

