-- ==== Sys2Proof/Laws/Memory.lean ====
section
/-! SUPPORT. The laws of the recorded write spaces: a read after a write, and the canonical form that every write keeps. -/

namespace Sys2Proof.Machine

variable {w : Nat}

theorem Memory.read_write_same (m : Memory w) (a : Nat) (v : BitVec w) : (m.write a v).read a = some v := by
  induction m with
  | nil => simp [Memory.write, Memory.read]
  | cons e m ih =>
    obtain ⟨b, u⟩ := e
    unfold Memory.write
    split
    · simp [Memory.read]
    · split
      · simp [Memory.read]
      · rename_i h; simp [Memory.read, h, ih]

theorem Memory.read_write_other (m : Memory w) {a a' : Nat} (v : BitVec w) (h : a' ≠ a) :
    (m.write a v).read a' = m.read a' := by
  induction m with
  | nil => simp [Memory.write, Memory.read, h]
  | cons e m ih =>
    obtain ⟨b, u⟩ := e
    unfold Memory.write
    split
    · simp [Memory.read, h]
    · split
      · rename_i hb; subst hb; simp [Memory.read, h]
      · simp [Memory.read, ih]

theorem Memory.mem_write {m : Memory w} {a : Nat} {v : BitVec w} {x : Nat × BitVec w} (h : x ∈ m.write a v) :
    x = (a, v) ∨ x ∈ m := by
  induction m with
  | nil => simpa [Memory.write] using h
  | cons e m ih =>
    obtain ⟨b, u⟩ := e
    unfold Memory.write at h
    split at h
    · simpa using h
    · split at h
      · rcases List.mem_cons.mp h with h | h
        · exact .inl h
        · exact .inr (List.mem_cons_of_mem _ h)
      · rcases List.mem_cons.mp h with h | h
        · exact .inr (h ▸ List.mem_cons_self)
        · exact (ih h).imp_right (List.mem_cons_of_mem _)

theorem Memory.wf_nil : Memory.wf ([] : Memory w) := List.Pairwise.nil

/-- A write keeps the canonical form. -/
theorem Memory.write_wf {m : Memory w} (h : m.wf) (a : Nat) (v : BitVec w) : (m.write a v).wf := by
  induction m with
  | nil => simp [Memory.write, Memory.wf]
  | cons e m ih =>
    obtain ⟨b, u⟩ := e
    obtain ⟨hb, hm⟩ := List.pairwise_cons.mp h
    unfold Memory.write
    split
    · rename_i hab
      refine List.pairwise_cons.mpr ⟨fun x hx => ?_, h⟩
      rcases List.mem_cons.mp hx with rfl | hx
      · exact hab
      · exact lt_trans hab (hb x hx)
    · split
      · rename_i _ hab; subst hab; exact List.pairwise_cons.mpr ⟨hb, hm⟩
      · refine List.pairwise_cons.mpr ⟨fun x hx => ?_, ih hm⟩
        rcases Memory.mem_write hx with rfl | hx
        · show b < a; omega
        · exact hb x hx

theorem synthApply_wf {m : Memory 8} (h : m.wf) (o : Output) : (synthApply m o).wf := by
  cases o with
  | diag e => exact h
  | codecWrite r v => exact h
  | synthWrite a v => exact Memory.write_wf h _ _

theorem codecApply_wf {m : Memory 9} (h : m.wf) (o : Output) : (codecApply m o).wf := by
  cases o with
  | diag e => exact h
  | codecWrite r v => exact Memory.write_wf h _ _
  | synthWrite a v => exact h

@[simp] theorem synthImage_append (out : List Output) (o : Output) :
    synthImage (out ++ [o]) = synthApply (synthImage out) o := by
  simp [synthImage]

@[simp] theorem codecImage_append (out : List Output) (o : Output) :
    codecImage (out ++ [o]) = codecApply (codecImage out) o := by
  simp [codecImage]

theorem foldl_synthApply_wf (out : List Output) {m : Memory 8} (h : m.wf) : (out.foldl synthApply m).wf := by
  induction out generalizing m with
  | nil => exact h
  | cons o out ih => exact ih (synthApply_wf h o)

theorem foldl_codecApply_wf (out : List Output) {m : Memory 9} (h : m.wf) : (out.foldl codecApply m).wf := by
  induction out generalizing m with
  | nil => exact h
  | cons o out ih => exact ih (codecApply_wf h o)

/-- The recorded write spaces are in canonical form in every state, the one after reset among them. -/
theorem State.memoryWf_all (s : State) : s.memoryWf :=
  ⟨foldl_synthApply_wf s.out Memory.wf_nil, foldl_codecApply_wf s.out Memory.wf_nil⟩

end Sys2Proof.Machine
end

