-- ==== Sys2Proof/Laws/State.lean ====
section
/-! SUPPORT. What each update of the state leaves in each field, one lemma per field and update, all by rfl. -/

namespace Sys2Proof.Machine

variable (s : State)

-- bufWrite: `buf[i] <- b`

@[simp] theorem State.bufWrite_buf0 (i : Count) (b : Byte) : (s.bufWrite i b).buf0 = if i = 0 then b else s.buf0 := rfl
@[simp] theorem State.bufWrite_buf1 (i : Count) (b : Byte) : (s.bufWrite i b).buf1 = if i = 1 then b else s.buf1 := rfl
@[simp] theorem State.bufWrite_buf2 (i : Count) (b : Byte) : (s.bufWrite i b).buf2 = if i = 2 then b else s.buf2 := rfl
@[simp] theorem State.bufWrite_count (i : Count) (b : Byte) : (s.bufWrite i b).count = s.count := rfl
@[simp] theorem State.bufWrite_halted (i : Count) (b : Byte) : (s.bufWrite i b).halted = s.halted := rfl
@[simp] theorem State.bufWrite_rx (i : Count) (b : Byte) : (s.bufWrite i b).rx = s.rx := rfl
@[simp] theorem State.bufWrite_resetIn (i : Count) (b : Byte) : (s.bufWrite i b).resetIn = s.resetIn := rfl
@[simp] theorem State.bufWrite_answers (i : Count) (b : Byte) : (s.bufWrite i b).answers = s.answers := rfl
@[simp] theorem State.bufWrite_answersTaken (i : Count) (b : Byte) : (s.bufWrite i b).answersTaken = s.answersTaken := rfl
@[simp] theorem State.bufWrite_out (i : Count) (b : Byte) : (s.bufWrite i b).out = s.out := rfl

-- setCount: `count <- n`

@[simp] theorem State.setCount_buf0 (n : Count) : (s.setCount n).buf0 = s.buf0 := rfl
@[simp] theorem State.setCount_buf1 (n : Count) : (s.setCount n).buf1 = s.buf1 := rfl
@[simp] theorem State.setCount_buf2 (n : Count) : (s.setCount n).buf2 = s.buf2 := rfl
@[simp] theorem State.setCount_count (n : Count) : (s.setCount n).count = n := rfl
@[simp] theorem State.setCount_halted (n : Count) : (s.setCount n).halted = s.halted := rfl
@[simp] theorem State.setCount_rx (n : Count) : (s.setCount n).rx = s.rx := rfl
@[simp] theorem State.setCount_resetIn (n : Count) : (s.setCount n).resetIn = s.resetIn := rfl
@[simp] theorem State.setCount_answers (n : Count) : (s.setCount n).answers = s.answers := rfl
@[simp] theorem State.setCount_answersTaken (n : Count) : (s.setCount n).answersTaken = s.answersTaken := rfl
@[simp] theorem State.setCount_out (n : Count) : (s.setCount n).out = s.out := rfl

-- setHalted: `halted <- h`

@[simp] theorem State.setHalted_buf0 (h : Bool) : (s.setHalted h).buf0 = s.buf0 := rfl
@[simp] theorem State.setHalted_buf1 (h : Bool) : (s.setHalted h).buf1 = s.buf1 := rfl
@[simp] theorem State.setHalted_buf2 (h : Bool) : (s.setHalted h).buf2 = s.buf2 := rfl
@[simp] theorem State.setHalted_count (h : Bool) : (s.setHalted h).count = s.count := rfl
@[simp] theorem State.setHalted_halted (h : Bool) : (s.setHalted h).halted = h := rfl
@[simp] theorem State.setHalted_rx (h : Bool) : (s.setHalted h).rx = s.rx := rfl
@[simp] theorem State.setHalted_resetIn (h : Bool) : (s.setHalted h).resetIn = s.resetIn := rfl
@[simp] theorem State.setHalted_answers (h : Bool) : (s.setHalted h).answers = s.answers := rfl
@[simp] theorem State.setHalted_answersTaken (h : Bool) : (s.setHalted h).answersTaken = s.answersTaken := rfl
@[simp] theorem State.setHalted_out (h : Bool) : (s.setHalted h).out = s.out := rfl

-- emit: one output

@[simp] theorem State.emit_buf0 (o : Output) : (s.emit o).buf0 = s.buf0 := rfl
@[simp] theorem State.emit_buf1 (o : Output) : (s.emit o).buf1 = s.buf1 := rfl
@[simp] theorem State.emit_buf2 (o : Output) : (s.emit o).buf2 = s.buf2 := rfl
@[simp] theorem State.emit_count (o : Output) : (s.emit o).count = s.count := rfl
@[simp] theorem State.emit_halted (o : Output) : (s.emit o).halted = s.halted := rfl
@[simp] theorem State.emit_rx (o : Output) : (s.emit o).rx = s.rx := rfl
@[simp] theorem State.emit_resetIn (o : Output) : (s.emit o).resetIn = s.resetIn := rfl
@[simp] theorem State.emit_answers (o : Output) : (s.emit o).answers = s.answers := rfl
@[simp] theorem State.emit_answersTaken (o : Output) : (s.emit o).answersTaken = s.answersTaken := rfl
@[simp] theorem State.emit_out (o : Output) : (s.emit o).out = s.out ++ [o] := rfl

-- diag: one diagnostic event

@[simp] theorem State.diag_buf0 (e : DiagEvent) : (s.diag e).buf0 = s.buf0 := rfl
@[simp] theorem State.diag_buf1 (e : DiagEvent) : (s.diag e).buf1 = s.buf1 := rfl
@[simp] theorem State.diag_buf2 (e : DiagEvent) : (s.diag e).buf2 = s.buf2 := rfl
@[simp] theorem State.diag_count (e : DiagEvent) : (s.diag e).count = s.count := rfl
@[simp] theorem State.diag_halted (e : DiagEvent) : (s.diag e).halted = s.halted := rfl
@[simp] theorem State.diag_rx (e : DiagEvent) : (s.diag e).rx = s.rx := rfl
@[simp] theorem State.diag_resetIn (e : DiagEvent) : (s.diag e).resetIn = s.resetIn := rfl
@[simp] theorem State.diag_answers (e : DiagEvent) : (s.diag e).answers = s.answers := rfl
@[simp] theorem State.diag_answersTaken (e : DiagEvent) : (s.diag e).answersTaken = s.answersTaken := rfl
@[simp] theorem State.diag_out (e : DiagEvent) : (s.diag e).out = s.out ++ [.diag e] := rfl

-- consumeAnswer: one answer consumed

@[simp] theorem State.consumeAnswer_buf0 : (s.consumeAnswer).buf0 = s.buf0 := rfl
@[simp] theorem State.consumeAnswer_buf1 : (s.consumeAnswer).buf1 = s.buf1 := rfl
@[simp] theorem State.consumeAnswer_buf2 : (s.consumeAnswer).buf2 = s.buf2 := rfl
@[simp] theorem State.consumeAnswer_count : (s.consumeAnswer).count = s.count := rfl
@[simp] theorem State.consumeAnswer_halted : (s.consumeAnswer).halted = s.halted := rfl
@[simp] theorem State.consumeAnswer_rx : (s.consumeAnswer).rx = s.rx := rfl
@[simp] theorem State.consumeAnswer_resetIn : (s.consumeAnswer).resetIn = s.resetIn := rfl
@[simp] theorem State.consumeAnswer_answers : (s.consumeAnswer).answers = s.answers.tail := rfl
@[simp] theorem State.consumeAnswer_answersTaken : (s.consumeAnswer).answersTaken = s.answersTaken + 1 := rfl
@[simp] theorem State.consumeAnswer_out : (s.consumeAnswer).out = s.out := rfl

-- deliver: a chunk delivered

@[simp] theorem State.deliver_buf0 (bs : List Byte) : (s.deliver bs).buf0 = s.buf0 := rfl
@[simp] theorem State.deliver_buf1 (bs : List Byte) : (s.deliver bs).buf1 = s.buf1 := rfl
@[simp] theorem State.deliver_buf2 (bs : List Byte) : (s.deliver bs).buf2 = s.buf2 := rfl
@[simp] theorem State.deliver_count (bs : List Byte) : (s.deliver bs).count = s.count := rfl
@[simp] theorem State.deliver_halted (bs : List Byte) : (s.deliver bs).halted = s.halted := rfl
@[simp] theorem State.deliver_rx (bs : List Byte) : (s.deliver bs).rx = s.rx ++ bs := rfl
@[simp] theorem State.deliver_resetIn (bs : List Byte) : (s.deliver bs).resetIn = s.resetIn := rfl
@[simp] theorem State.deliver_answers (bs : List Byte) : (s.deliver bs).answers = s.answers := rfl
@[simp] theorem State.deliver_answersTaken (bs : List Byte) : (s.deliver bs).answersTaken = s.answersTaken := rfl
@[simp] theorem State.deliver_out (bs : List Byte) : (s.deliver bs).out = s.out := rfl

-- passBoundary: a step boundary passed

@[simp] theorem State.passBoundary_buf0 : (s.passBoundary).buf0 = s.buf0 := rfl
@[simp] theorem State.passBoundary_buf1 : (s.passBoundary).buf1 = s.buf1 := rfl
@[simp] theorem State.passBoundary_buf2 : (s.passBoundary).buf2 = s.buf2 := rfl
@[simp] theorem State.passBoundary_count : (s.passBoundary).count = s.count := rfl
@[simp] theorem State.passBoundary_halted : (s.passBoundary).halted = s.halted := rfl
@[simp] theorem State.passBoundary_rx : (s.passBoundary).rx = s.rx := rfl
@[simp] theorem State.passBoundary_resetIn : (s.passBoundary).resetIn = s.resetIn.tail := rfl
@[simp] theorem State.passBoundary_answers : (s.passBoundary).answers = s.answers := rfl
@[simp] theorem State.passBoundary_answersTaken : (s.passBoundary).answersTaken = s.answersTaken := rfl
@[simp] theorem State.passBoundary_out : (s.passBoundary).out = s.out := rfl

-- dropByte: a byte taken

@[simp] theorem State.dropByte_buf0 : (s.dropByte).buf0 = s.buf0 := rfl
@[simp] theorem State.dropByte_buf1 : (s.dropByte).buf1 = s.buf1 := rfl
@[simp] theorem State.dropByte_buf2 : (s.dropByte).buf2 = s.buf2 := rfl
@[simp] theorem State.dropByte_count : (s.dropByte).count = s.count := rfl
@[simp] theorem State.dropByte_halted : (s.dropByte).halted = s.halted := rfl
@[simp] theorem State.dropByte_rx : (s.dropByte).rx = s.rx.tail := rfl
@[simp] theorem State.dropByte_resetIn : (s.dropByte).resetIn = s.resetIn := rfl
@[simp] theorem State.dropByte_answers : (s.dropByte).answers = s.answers := rfl
@[simp] theorem State.dropByte_answersTaken : (s.dropByte).answersTaken = s.answersTaken := rfl
@[simp] theorem State.dropByte_out : (s.dropByte).out = s.out := rfl

-- nextAnswer depends on the answers alone

@[simp] theorem State.nextAnswer_bufWrite (i : Count) (b : Byte) : (s.bufWrite i b).nextAnswer = s.nextAnswer := rfl
@[simp] theorem State.nextAnswer_setCount (n : Count) : (s.setCount n).nextAnswer = s.nextAnswer := rfl
@[simp] theorem State.nextAnswer_setHalted (h : Bool) : (s.setHalted h).nextAnswer = s.nextAnswer := rfl
@[simp] theorem State.nextAnswer_emit (o : Output) : (s.emit o).nextAnswer = s.nextAnswer := rfl
@[simp] theorem State.nextAnswer_deliver (bs : List Byte) : (s.deliver bs).nextAnswer = s.nextAnswer := rfl
@[simp] theorem State.nextAnswer_passBoundary : s.passBoundary.nextAnswer = s.nextAnswer := rfl
@[simp] theorem State.nextAnswer_dropByte : s.dropByte.nextAnswer = s.nextAnswer := rfl

-- the operations built from the updates

@[simp] theorem applyReset_eq : applyReset s = { s with buf0 := 0, buf1 := 0, buf2 := 0, count := 0, halted := false } := rfl
@[simp] theorem raiseCodecWriteFailure_eq : raiseCodecWriteFailure s = { s with count := 0, halted := true } := rfl

end Sys2Proof.Machine
end

