-- ==== Sys2Proof/Laws/Ops.lean ====
section
/-! SUPPORT. What each shared operation can do, said once: the Router, the completion test, the Decoder's operations, and how a meaning runs. -/

namespace Sys2Proof.Machine

variable (s : State)

/-- A codec write issues its transaction and consumes one answer, whichever the answer is (R33). -/
theorem codecWrite_eq (r : CodecReg) (v : CodecVal) :
    codecWrite r v s = (s.nextAnswer, { s with
      out := s.out ++ [.codecWrite r v], answers := s.answers.tail, answersTaken := s.answersTaken + 1 }) := rfl

@[simp] theorem regwr_eq (a : SynthAddr) (v : Byte) : regwr a v s = { s with out := s.out ++ [.synthWrite a v] } := rfl

/-- The two outcomes of VOLSET (R93): the write alone, or the write and then the fatal condition. -/
theorem volset_eq (l : Level) :
    volset l s =
      match s.nextAnswer with
      | .ok => (codecWrite 2 (0x100 ||| l.setWidth 9) s).2
      | .fail => { (codecWrite 2 (0x100 ||| l.setWidth 9) s).2 with count := 0, halted := true } := by
  unfold volset volumeOp
  rw [codecWrite_eq]
  cases h : s.nextAnswer <;> rfl

/-- The message of three bytes is routed as one SYNTH write of their packed fields (R92). -/
@[simp] theorem route_ofNoteOn (b0 b1 b2 : Byte) :
    route (.ofNoteOn b0 b1 b2) s = { s with out := s.out ++ [.synthWrite (packAddr b0 b1) (packVal b0 b2)] } := by
  simp [route, DecodedMessage.ofNoteOn]

/-- The message of two bytes is routed as VOLSET of its level (R93). -/
@[simp] theorem route_ofProgChange (b1 : Byte) : route (.ofProgChange b1) s = volset (volumeLevel b1) s := by
  simp [route, DecodedMessage.ofProgChange]

/-- The completion test at count 1 never finds a message (R80). -/
theorem completedMessage_one (h : s.count = 1) : completedMessage s = none := by
  simp [completedMessage, h, noteOnLen, pcLen]

/-- A message found is the buffer's, and it is one of the two forms at its own length (R78, R79). -/
theorem completedMessage_cases {m : DecodedMessage} (h : completedMessage s = some m) :
    (m = .ofNoteOn s.buf0 s.buf1 s.buf2 ∧ noteonStatus s.buf0 = true ∧ s.count = 3) ∨
    (m = .ofProgChange s.buf1 ∧ pcStatus s.buf0 = true ∧ s.count = 2) := by
  unfold completedMessage at h
  split at h
  · rename_i hc
    simp [noteOnLen] at hc h
    exact .inl ⟨h.symm, hc⟩
  · split at h
    · rename_i hc
      simp [pcLen] at hc h
      exact .inr ⟨h.symm, hc⟩
    · cases h

theorem completionTest_none (h : completedMessage s = none) : completionTest s = s := by
  simp [completionTest, h]

theorem completionTest_some {m : DecodedMessage} (h : completedMessage s = some m) :
    completionTest s = (route m s).setCount 0 := by
  simp [completionTest, h]

/-- STATUS writes byte 0 and the count, and emits the drop of a message in progress (R71). -/
theorem statusByte_eq (b : Byte) :
    statusByte b s = { s with
      buf0 := b, count := 1,
      out := if s.count = 0 then s.out else s.out ++ [.diag (.dropIncomplete s.buf0)] } := by
  unfold statusByte
  rw [completionTest_none _ (completedMessage_one _ rfl)]
  by_cases h : s.count = 0
  · rw [if_neg (by simp [inProgress, h]), if_pos h]; rfl
  · rw [if_pos (by simpa [inProgress] using h), if_neg h]; rfl

/-- The state that DATA.APPEND makes before its completion test (R77). -/
def State.appended (s : State) (b : Byte) : State := (s.bufWrite s.count b).setCount (s.count + 1)

theorem appendByte_eq (b : Byte) : appendByte b s = completionTest (s.appended b) := rfl

/-- DATA.APPEND at count 1: a Program-Change-shaped message completes, or the byte is kept (R77, R79, R80). -/
theorem appendByte_one (b : Byte) (h : s.count = 1) :
    appendByte b s =
      if pcStatus s.buf0 then (volset (volumeLevel b) { s with buf1 := b, count := 2 }).setCount 0
      else { s with buf1 := b, count := 2 } := by
  have e : s.appended b = { s with buf1 := b, count := 2 } := by
    simp [State.appended, State.bufWrite, State.setCount, h]
  rw [appendByte_eq, e]
  by_cases hp : pcStatus s.buf0 = true
  · simp [completionTest, completedMessage, noteOnLen, pcLen, hp]
  · simp [completionTest, completedMessage, noteOnLen, pcLen, hp]

/-- DATA.APPEND at count 2: a Note-On-shaped message completes, or the byte is kept (R77, R78, R80). -/
theorem appendByte_two (b : Byte) (h : s.count = 2) :
    appendByte b s =
      if noteonStatus s.buf0 then
        { s with buf2 := b, count := 0, out := s.out ++ [.synthWrite (packAddr s.buf0 s.buf1) (packVal s.buf0 b)] }
      else { s with buf2 := b, count := 3 } := by
  have e : s.appended b = { s with buf2 := b, count := 3 } := by
    simp [State.appended, State.bufWrite, State.setCount, h]
  rw [appendByte_eq, e]
  by_cases hp : noteonStatus s.buf0 = true
  · simp [completionTest, completedMessage, noteOnLen, hp, State.setCount]
  · simp [completionTest, completedMessage, noteOnLen, pcLen, hp]

/-- What a byte-level operation can answer: a halted block's own state, the effect of a selected operation, or the
refusal of one that is not selected. -/
theorem byteOperation_cases {i : Instr} {f : State → State} {t : State} (h : byteOperation i f s = .next t) :
    (s.halted = true ∧ t = s) ∨
    (s.halted = false ∧ i.wellFormed = true ∧ i.selectedAt s.count = true ∧ t = f s) := by
  unfold byteOperation at h
  split at h
  · cases h; exact .inl ⟨‹_›, rfl⟩
  · split at h
    · rename_i h1 h2
      cases h
      simp at h1 h2
      exact .inr ⟨h1, h2.1, h2.2, rfl⟩
    · cases h

theorem byteOperation_run {i : Instr} {f : State → State} (hh : s.halted = false) (hw : i.wellFormed = true)
    (hs : i.selectedAt s.count = true) : byteOperation i f s = .next (f s) := by
  simp [byteOperation, hh, hw, hs]

theorem byteOperation_halted {i : Instr} {f : State → State} (hh : s.halted = true) :
    byteOperation i f s = .next s := by
  simp [byteOperation, hh]

/-- What a message-level operation can answer. -/
theorem messageOperation_eq (f : State → State) :
    messageOperation f s = .next (if s.halted then s else f s) := by
  unfold messageOperation; split <;> rfl

/-- Which byte is taken, if any (R20). -/
theorem takeByte_cases :
    (s.takeByte = none ∧ (s.halted = true ∨ s.rx = [])) ∨
    (∃ b rest, s.halted = false ∧ s.rx = b :: rest ∧
      s.takeByte = some (b, { s with rx := rest, resetIn := s.resetIn.tail })) := by
  unfold State.takeByte
  cases hh : s.halted with
  | true => exact .inl ⟨rfl, .inl rfl⟩
  | false =>
    cases hr : s.rx with
    | nil => exact .inl ⟨rfl, .inr rfl⟩
    | cons b rest =>
      refine .inr ⟨b, rest, rfl, rfl, ?_⟩
      simp [State.passBoundary, State.dropByte, hr, hh]

end Sys2Proof.Machine
end

