-- ==== Sys2Proof/Laws/PerInstr.lean ====
section
/-! SUPPORT. Facts about every operation as syntax, one lemma per constructor. -/

namespace Sys2Proof.Laws

/-- The `width_bits` column of spec/opcode_table.json, in bytes. -/
def EncodedWidth.tableBytes : Instr → Nat
  | .regwr _ _ => 3
  | .volset _ => 2
  | _ => 1

/-- The encoder writes as many bytes as the opcode table gives the row (R52, R53, R65). -/
def EncodedWidth.Statement (i : Instr) : Prop := (encode i).length = EncodedWidth.tableBytes i

theorem EncodedWidth.dataOrphan (b : Byte) : EncodedWidth.Statement (.dataOrphan b) := rfl
theorem EncodedWidth.dataAppend (b : Byte) : EncodedWidth.Statement (.dataAppend b) := rfl
theorem EncodedWidth.dataOverflow (b : Byte) : EncodedWidth.Statement (.dataOverflow b) := rfl
theorem EncodedWidth.stNoteon (b : Byte) : EncodedWidth.Statement (.stNoteon b) := rfl
theorem EncodedWidth.stPc (b : Byte) : EncodedWidth.Statement (.stPc b) := rfl
theorem EncodedWidth.stOther1 (b : Byte) : EncodedWidth.Statement (.stOther1 b) := rfl
theorem EncodedWidth.stOther2 (b : Byte) : EncodedWidth.Statement (.stOther2 b) := rfl
theorem EncodedWidth.stOther3 (b : Byte) : EncodedWidth.Statement (.stOther3 b) := rfl
theorem EncodedWidth.stOther4 (b : Byte) : EncodedWidth.Statement (.stOther4 b) := rfl
theorem EncodedWidth.stOther5 (b : Byte) : EncodedWidth.Statement (.stOther5 b) := rfl
theorem EncodedWidth.stOther6 (b : Byte) : EncodedWidth.Statement (.stOther6 b) := rfl
theorem EncodedWidth.stOther7 (b : Byte) : EncodedWidth.Statement (.stOther7 b) := rfl
theorem EncodedWidth.stOther8 (b : Byte) : EncodedWidth.Statement (.stOther8 b) := rfl
theorem EncodedWidth.stOther9 (b : Byte) : EncodedWidth.Statement (.stOther9 b) := rfl
theorem EncodedWidth.regwr (a : SynthAddr) (v : Byte) : EncodedWidth.Statement (.regwr a v) := rfl
theorem EncodedWidth.volset (l : Level) : EncodedWidth.Statement (.volset l) := rfl

end Sys2Proof.Laws
end

