-- ==== Sys2Proof/Laws/Step.lean ====
section
/-! SUPPORT. What one byte and one step can do, said once. -/

namespace Sys2Proof.Machine

variable (s : State)

/-- A status byte's operation is STATUS, whichever of the eleven rows it lies in (R71). -/
theorem exec_status {b : Byte} {i : Instr} (h : IsStatusForm b i) : exec i s = byteOperation i (statusByte b) s := by
  rcases h with h | h | h | h | h | h | h | h | h | h | h <;> subst h <;> rfl

theorem blockStep_halted (b : Byte) (h : s.halted = true) : blockStep b s = .next s := by
  unfold blockStep
  cases hb : isStatus b with
  | true => rw [decodeByte_status hb, exec_status s (decodeStatus_form b), byteOperation_halted s h]
  | false =>
    rw [decodeByte_data hb]
    split
    · exact byteOperation_halted s h
    · split <;> exact byteOperation_halted s h

/-- What one byte does to a running block: one of the four operations of R70. -/
theorem blockStep_running (b : Byte) (h : s.halted = false) :
    blockStep b s = .next (
      if isStatus b then statusByte b s
      else if s.count = 3 then overflowByte b s
      else if s.count = 0 then orphanByte b s
      else appendByte b s) := by
  have hw := decodeByte_wellFormed s.count b
  have hs := decodeByte_selectedAt s.count b
  unfold blockStep
  cases hb : isStatus b with
  | true =>
    rw [decodeByte_status hb] at hw hs ⊢
    rw [exec_status s (decodeStatus_form b), byteOperation_run s h hw hs]; simp
  | false =>
    rw [decodeByte_data hb] at hw hs ⊢
    by_cases h3 : s.count = 3
    · simp only [h3, if_true] at hw hs ⊢
      exact byteOperation_run s h hw (by rw [h3]; exact hs)
    · by_cases h0 : s.count = 0
      · have h03 : (0 : Count) ≠ 3 := by decide
        simp only [h0, if_true, if_neg h03] at hw hs ⊢
        exact byteOperation_run s h hw (by rw [h0]; exact hs)
      · simp only [if_neg h3, if_neg h0] at hw hs ⊢
        exact byteOperation_run s h hw hs

/-- What one byte can do to a running block, case by case: a status byte, an overflow byte, an orphan byte, a stored
byte, a byte that completes a volume write, a stored third byte, a byte that completes a register write (R84). -/
theorem blockStep_cases (b : Byte) (hh : s.halted = false) :
    ∃ t, blockStep b s = .next t ∧
      ((isStatus b = true ∧ t = { s with
          buf0 := b, count := 1,
          out := if s.count = 0 then s.out else s.out ++ [.diag (.dropIncomplete s.buf0)] }) ∨
       (isStatus b = false ∧ s.count = 3 ∧ t = { s with out := s.out ++ [.diag (.dropData b)] }) ∨
       (isStatus b = false ∧ s.count = 0 ∧ t = s) ∨
       (isStatus b = false ∧ s.count = 1 ∧ pcStatus s.buf0 = false ∧ t = { s with buf1 := b, count := 2 }) ∨
       (isStatus b = false ∧ s.count = 1 ∧ pcStatus s.buf0 = true ∧ t = { s with
          buf1 := b, count := 0, answers := s.answers.tail, answersTaken := s.answersTaken + 1,
          halted := decide (s.nextAnswer = .fail),
          out := s.out ++ [.codecWrite 2 (volumeValue (volumeLevel b))] }) ∨
       (isStatus b = false ∧ s.count = 2 ∧ noteonStatus s.buf0 = false ∧ t = { s with buf2 := b, count := 3 }) ∨
       (isStatus b = false ∧ s.count = 2 ∧ noteonStatus s.buf0 = true ∧ t = { s with
          buf2 := b, count := 0,
          out := s.out ++ [.synthWrite (packAddr s.buf0 s.buf1) (packVal s.buf0 b)] })) := by
  refine ⟨_, blockStep_running s b hh, ?_⟩
  cases hb : isStatus b with
  | true => exact .inl ⟨rfl, by rw [if_pos rfl, statusByte_eq]⟩
  | false =>
    right
    rw [if_neg (by simp)]
    by_cases h3 : s.count = 3
    · exact .inl ⟨rfl, h3, by rw [if_pos h3]; rfl⟩
    by_cases h0 : s.count = 0
    · exact .inr (.inl ⟨rfl, h0, by rw [if_neg h3, if_pos h0]; rfl⟩)
    rw [if_neg h3, if_neg h0]
    rcases count_cases s.count with h | h | h | h
    · exact absurd h h0
    · rw [appendByte_one s b h]
      cases hp : pcStatus s.buf0 with
      | false => exact .inr (.inr (.inl ⟨rfl, h, rfl, by simp⟩))
      | true =>
        refine .inr (.inr (.inr (.inl ⟨rfl, h, rfl, ?_⟩)))
        have hn : ({ s with buf1 := b, count := 2 } : State).nextAnswer = s.nextAnswer := rfl
        rw [if_pos rfl, volset_eq, hn]
        cases s.nextAnswer <;> simp [codecWrite_eq, State.setCount, hh, volumeValue, codecVolFlag]
    · rw [appendByte_two s b h]
      cases hp : noteonStatus s.buf0 with
      | false => exact .inr (.inr (.inr (.inr (.inl ⟨rfl, h, rfl, by simp⟩))))
      | true => exact .inr (.inr (.inr (.inr (.inr ⟨rfl, h, rfl, by simp⟩))))
    · exact absurd h h3

/-- What a step can do: a reset, one byte, or nothing but passing the boundary. -/
theorem step_cases :
    (s.resetAsserted = true ∧ step s = .next (applyReset s.passBoundary)) ∨
    (s.resetAsserted = false ∧ (s.halted = true ∨ s.rx = []) ∧ step s = .next s.passBoundary) ∨
    (∃ b rest, s.resetAsserted = false ∧ s.halted = false ∧ s.rx = b :: rest ∧
      step s = blockStep b { s with rx := rest, resetIn := s.resetIn.tail }) := by
  unfold step boundaryStep
  cases hr : s.resetAsserted with
  | true => exact .inl ⟨rfl, rfl⟩
  | false =>
    refine .inr ?_
    rcases takeByte_cases s with ⟨ht, hc⟩ | ⟨b, rest, hh, hx, ht⟩
    · exact .inl ⟨rfl, hc, by simp [ht]⟩
    · exact .inr ⟨b, rest, rfl, hh, hx, by simp [ht]⟩

/-- One step more of a run of the machine. -/
theorem stepN_succ (n : Nat) {t : State} (h : step s = .next t) : stepN (n + 1) s = stepN n t := by
  simp [stepN, h]

/-- Feeding one byte more. -/
theorem feed_cons (b : Byte) (bs : List Byte) {t : State} (h : blockStep b s = .next t) :
    feed (b :: bs) s = feed bs t := by
  simp [feed, h]

end Sys2Proof.Machine
end

