-- ==== Sys2Proof/Tests/Slice0.lean ====
section
/-! SUPPORT. Tests of the model on single bytes and messages, each expected result from the spec (95_test_vectors.md by its id, or the rule named), and witnesses for the hypotheses of the statements. -/

namespace Sys2Proof.Tests

open Sys2Proof.Machine

/-- The state after reset with a given partial message. -/
def st (c : Count) (b0 b1 b2 : Byte) : State := { State.reset with count := c, buf0 := b0, buf1 := b1, buf2 := b2 }

/-- The same with answers given beforehand. -/
def ans (as : List CodecAnswer) (s : State) : State := { s with answers := as }

/-- The same with bytes waiting on RX. -/
def rx (bs : List Byte) (s : State) : State := { s with rx := bs }

-- Well-formedness: a byte outside each row is refused (R51)

theorem test_wellFormed_dataOrphan : (Instr.dataOrphan 0x7F).wellFormed = true ∧ (Instr.dataOrphan 0x80).wellFormed = false := by decide
theorem test_wellFormed_dataAppend : (Instr.dataAppend 0x7F).wellFormed = true ∧ (Instr.dataAppend 0x80).wellFormed = false := by decide
theorem test_wellFormed_dataOverflow : (Instr.dataOverflow 0x7F).wellFormed = true ∧ (Instr.dataOverflow 0x80).wellFormed = false := by decide
theorem test_wellFormed_stNoteon : (Instr.stNoteon 0x90).wellFormed = true ∧ (Instr.stNoteon 0x97).wellFormed = true ∧
    (Instr.stNoteon 0x8f).wellFormed = false ∧ (Instr.stNoteon 0x98).wellFormed = false := by decide
theorem test_wellFormed_stPc : (Instr.stPc 0xc0).wellFormed = true ∧ (Instr.stPc 0xc0).wellFormed = true ∧
    (Instr.stPc 0xbf).wellFormed = false ∧ (Instr.stPc 0xc1).wellFormed = false := by decide
theorem test_wellFormed_stOther1 : (Instr.stOther1 0x80).wellFormed = true ∧ (Instr.stOther1 0x8f).wellFormed = true ∧
    (Instr.stOther1 0x7F).wellFormed = false ∧ (Instr.stOther1 0x90).wellFormed = false := by decide
theorem test_wellFormed_stOther2 : (Instr.stOther2 0x98).wellFormed = true ∧ (Instr.stOther2 0x9f).wellFormed = true ∧
    (Instr.stOther2 0x97).wellFormed = false ∧ (Instr.stOther2 0xa0).wellFormed = false := by decide
theorem test_wellFormed_stOther3 : (Instr.stOther3 0xa0).wellFormed = true ∧ (Instr.stOther3 0xbf).wellFormed = true ∧
    (Instr.stOther3 0x9f).wellFormed = false ∧ (Instr.stOther3 0xc0).wellFormed = false := by decide
theorem test_wellFormed_stOther4 : (Instr.stOther4 0xc1).wellFormed = true ∧ (Instr.stOther4 0xc1).wellFormed = true ∧
    (Instr.stOther4 0xc0).wellFormed = false ∧ (Instr.stOther4 0xc2).wellFormed = false := by decide
theorem test_wellFormed_stOther5 : (Instr.stOther5 0xc2).wellFormed = true ∧ (Instr.stOther5 0xc3).wellFormed = true ∧
    (Instr.stOther5 0xc1).wellFormed = false ∧ (Instr.stOther5 0xc4).wellFormed = false := by decide
theorem test_wellFormed_stOther6 : (Instr.stOther6 0xc4).wellFormed = true ∧ (Instr.stOther6 0xc7).wellFormed = true ∧
    (Instr.stOther6 0xc3).wellFormed = false ∧ (Instr.stOther6 0xc8).wellFormed = false := by decide
theorem test_wellFormed_stOther7 : (Instr.stOther7 0xc8).wellFormed = true ∧ (Instr.stOther7 0xcf).wellFormed = true ∧
    (Instr.stOther7 0xc7).wellFormed = false ∧ (Instr.stOther7 0xd0).wellFormed = false := by decide
theorem test_wellFormed_stOther8 : (Instr.stOther8 0xd0).wellFormed = true ∧ (Instr.stOther8 0xdf).wellFormed = true ∧
    (Instr.stOther8 0xcf).wellFormed = false ∧ (Instr.stOther8 0xe0).wellFormed = false := by decide
theorem test_wellFormed_stOther9 : (Instr.stOther9 0xe0).wellFormed = true ∧ (Instr.stOther9 0xff).wellFormed = true ∧
    (Instr.stOther9 0xdf).wellFormed = false ∧ (Instr.stOther9 0x7F).wellFormed = false := by decide

-- Decoding: words written out from the encodings of R50 to R53 and R65

theorem test_decode_dataOrphan : decode 0 [0b00111100] = .ok (.dataOrphan 0x3C) := by rfl
theorem test_decode_dataAppend : decode 1 [0b00010000] = .ok (.dataAppend 0x10) := by rfl
theorem test_decode_dataAppend_two : decode 2 [0b01111111] = .ok (.dataAppend 0x7F) := by rfl
theorem test_decode_dataOverflow : decode 3 [0b00000000] = .ok (.dataOverflow 0x00) := by rfl
theorem test_decode_stNoteon : decode 3 [0b10010111] = .ok (.stNoteon 0x97) := by rfl
theorem test_decode_stPc : decode 3 [0b11000000] = .ok (.stPc 0xC0) := by rfl
theorem test_decode_stOther1 : decode 3 [0b10001111] = .ok (.stOther1 0x8F) := by rfl
theorem test_decode_stOther2 : decode 3 [0b10011000] = .ok (.stOther2 0x98) := by rfl
theorem test_decode_stOther3 : decode 3 [0b10111111] = .ok (.stOther3 0xBF) := by rfl
theorem test_decode_stOther4 : decode 3 [0b11000001] = .ok (.stOther4 0xC1) := by rfl
theorem test_decode_stOther5 : decode 3 [0b11000011] = .ok (.stOther5 0xC3) := by rfl
theorem test_decode_stOther6 : decode 3 [0b11000111] = .ok (.stOther6 0xC7) := by rfl
theorem test_decode_stOther7 : decode 3 [0b11001000] = .ok (.stOther7 0xC8) := by rfl
theorem test_decode_stOther8 : decode 3 [0b11011111] = .ok (.stOther8 0xDF) := by rfl
theorem test_decode_stOther9 : decode 3 [0b11111000] = .ok (.stOther9 0xF8) := by rfl
theorem test_decode_regwr : decode 0 [0b10010110, 0b00000101, 0b00000001] = .ok (.regwr 0x105 0x81) := by rfl
theorem test_decode_volset : decode 0 [0b11000000, 0b01000000] = .ok (.volset 0x40) := by rfl
theorem test_decode_refuses_98 : decode 0 [0x98, 0x00, 0x00] = .error .notNoteOnShaped := by rfl
theorem test_decode_refuses_C1 : decode 0 [0xC1, 0x40] = .error .notProgramChangeShaped := by rfl
theorem test_decode_refuses_status_inside : decode 0 [0x90, 0x10, 0xF8] = .error .statusInsideMessage := by rfl
theorem test_decode_refuses_none : decode 0 [] = .error .noByte := by rfl
theorem test_decode_refuses_four : decode 0 [0x90, 0x00, 0x00, 0x00] = .error .tooLong := by rfl
theorem test_encode_regwr : encode (.regwr 0x0A0 0x95) = [0x95, 0x20, 0x15] := by decide  -- the inverse check of 2.1
theorem test_tableWord_regwr : decodeTableWord 24 0x960501 = some (.regwr 0x105 0x81) := by decide
theorem test_tableWord_volset : decodeTableWord 16 0xC040 = some (.volset 0x40) := by decide

-- Meanings (the vectors of 95_test_vectors.md)

theorem test_V20_stNoteon_empty : exec (.stNoteon 0x90) (st 0 0 0 0) = .next (st 1 0x90 0 0) := by rfl
theorem test_V21_stNoteon_again : exec (.stNoteon 0x90) (st 1 0x90 0 0) =
    .next { st 1 0x90 0 0 with out := [.diag (.dropIncomplete 0x90)] } := by rfl
theorem test_V22_stPc : exec (.stPc 0xC0) (st 1 0xC0 0 0) =
    .next { st 1 0xC0 0 0 with out := [.diag (.dropIncomplete 0xC0)] } := by rfl
theorem test_V24_stPc : exec (.stPc 0xC0) (st 2 0x90 0x10 0) =
    .next { st 1 0xC0 0x10 0 with out := [.diag (.dropIncomplete 0x90)] } := by rfl
theorem test_V26_stOther1 : exec (.stOther1 0x80) (st 1 0xFF 0 0) =
    .next { st 1 0x80 0 0 with out := [.diag (.dropIncomplete 0xFF)] } := by rfl
theorem test_V55_stOther2 : exec (.stOther2 0x98) (st 0 0 0 0) = .next (st 1 0x98 0 0) := by rfl
theorem test_PRG2_stOther3 : exec (.stOther3 0xB0) (st 2 0x90 0x10 0) =
    .next { st 1 0xB0 0x10 0 with out := [.diag (.dropIncomplete 0x90)] } := by rfl
theorem test_V54_stOther4 : exec (.stOther4 0xC1) (st 0 0 0 0) = .next (st 1 0xC1 0 0) := by rfl
theorem test_R74_stOther5 : exec (.stOther5 0xC3) (st 3 0x80 0x3C 0x40) =
    .next { st 1 0xC3 0x3C 0x40 with out := [.diag (.dropIncomplete 0x80)] } := by rfl
theorem test_R74_stOther6 : exec (.stOther6 0xC4) (st 0 0 0 0) = .next (st 1 0xC4 0 0) := by rfl
theorem test_R74_stOther7 : exec (.stOther7 0xCF) (st 1 0xC0 0 0) =
    .next { st 1 0xCF 0 0 with out := [.diag (.dropIncomplete 0xC0)] } := by rfl
theorem test_R74_stOther8 : exec (.stOther8 0xD0) (st 0 0 0 0) = .next (st 1 0xD0 0 0) := by rfl
theorem test_V23_stOther9 : exec (.stOther9 0xF8) (st 2 0x90 0x10 0) =
    .next { st 1 0xF8 0x10 0 with out := [.diag (.dropIncomplete 0x90)] } := by rfl
theorem test_V33_dataOrphan : exec (.dataOrphan 0x7F) (st 0 0 0 0) = .next (st 0 0 0 0) := by rfl
theorem test_V31_dataOverflow : exec (.dataOverflow 0x7F) (st 3 0x80 0x3C 0x40) =
    .next { st 3 0x80 0x3C 0x40 with out := [.diag (.dropData 0x7F)] } := by rfl
theorem test_V38_dataAppend_98 : exec (.dataAppend 0x00) (st 2 0x98 0x00 0) = .next (st 3 0x98 0x00 0x00) := by rfl
theorem test_V2_dataAppend_completes : exec (.dataAppend 0x7F) (st 2 0x93 0x7F 0) =
    .next { st 0 0x93 0x7F 0x7F with out := [.synthWrite 0x1FF 0x7F] } := by rfl
theorem test_V10_regwr : exec (.regwr 0x105 0x81) (st 3 0x96 0x05 0x01) =
    .next { st 3 0x96 0x05 0x01 with out := [.synthWrite 0x105 0x81] } := by rfl
theorem test_V12_volset : exec (.volset 0x40) (ans [.ok, .fail] (st 2 0xC0 0x40 0)) =
    .next { ans [.fail] (st 2 0xC0 0x40 0) with answersTaken := 1, out := [.codecWrite 2 0x140] } := by rfl
theorem test_V16_volset_fails : exec (.volset 0x40) (ans [.fail] (st 2 0xC0 0x40 0)) =
    .next { st 0 0xC0 0x40 0 with halted := true, answersTaken := 1, out := [.codecWrite 2 0x140] } := by rfl

-- The step, the reset input, and the placing of a table word

theorem test_V60_step_halts : step (rx [0x10] (ans [.fail] (st 1 0xC0 0 0))) =
    .next { st 0 0xC0 0x10 0 with halted := true, answersTaken := 1, out := [.codecWrite 2 0x110] } := by rfl
theorem test_PRG3_halted_takes_nothing : step (rx [0x90] { st 0 0 0 0 with halted := true }) =
    .next (rx [0x90] { st 0 0 0 0 with halted := true }) := by rfl
theorem test_V62_reset : step { rx [0x20] (st 2 0x90 0x10 0) with resetIn := [true, false] } =
    .next { rx [0x20] (st 0 0 0 0) with resetIn := [false] } := by rfl
theorem test_R121_wait : step (st 2 0x90 0x10 0) = .next (st 2 0x90 0x10 0) := by rfl
theorem test_place_regwr : step (State.reset.withFetchWord 24 0x960501) =
    .next { st 0 0x96 0x05 0x01 with out := [.synthWrite 0x105 0x81] } := by rfl
theorem test_place_stNoteon : step (State.reset.withFetchWord 8 0x93) = .next (st 1 0x93 0 0) := by rfl
theorem test_place_dataOrphan : step (State.reset.withFetchWord 8 0x3C) = .next State.reset := by rfl

-- Witnesses: for each statement with hypotheses, a state and operands that meet them, at boundary values

theorem witness_ResetFromAnyState : ({ st 2 0x90 0x10 0 with halted := true, resetIn := [true] } : State).resetAsserted = true := by
  decide
theorem witness_ResetLeavesTheEnvironment :
    step { ans [.fail] (rx [0x20] (st 2 0x90 0x10 0)) with resetIn := [true, true] } =
      .next { ans [.fail] (rx [0x20] (st 0 0 0 0)) with resetIn := [true] } := rfl
theorem witness_StatusByteStartsMessage_stNoteon : (st 3 0x80 0x3C 0x40).halted = false ∧ 0x90 ≤ (0x90 : Byte).toNat ∧ (0x90 : Byte).toNat ≤ 0x97 ∧
    0x90 ≤ (0x97 : Byte).toNat ∧ (0x97 : Byte).toNat ≤ 0x97 := by
  decide
theorem witness_StatusByteStartsMessage_stPc : (st 3 0x80 0x3C 0x40).halted = false ∧ (0xc0 : Byte).toNat = 0xc0 := by
  decide
theorem witness_StatusByteStartsMessage_stOther1 : (st 3 0x80 0x3C 0x40).halted = false ∧ 0x80 ≤ (0x80 : Byte).toNat ∧ (0x80 : Byte).toNat ≤ 0x8f ∧
    0x80 ≤ (0x8f : Byte).toNat ∧ (0x8f : Byte).toNat ≤ 0x8f := by
  decide
theorem witness_StatusByteStartsMessage_stOther2 : (st 3 0x80 0x3C 0x40).halted = false ∧ 0x98 ≤ (0x98 : Byte).toNat ∧ (0x98 : Byte).toNat ≤ 0x9f ∧
    0x98 ≤ (0x9f : Byte).toNat ∧ (0x9f : Byte).toNat ≤ 0x9f := by
  decide
theorem witness_StatusByteStartsMessage_stOther3 : (st 3 0x80 0x3C 0x40).halted = false ∧ 0xa0 ≤ (0xa0 : Byte).toNat ∧ (0xa0 : Byte).toNat ≤ 0xbf ∧
    0xa0 ≤ (0xbf : Byte).toNat ∧ (0xbf : Byte).toNat ≤ 0xbf := by
  decide
theorem witness_StatusByteStartsMessage_stOther4 : (st 3 0x80 0x3C 0x40).halted = false ∧ (0xc1 : Byte).toNat = 0xc1 := by
  decide
theorem witness_StatusByteStartsMessage_stOther5 : (st 3 0x80 0x3C 0x40).halted = false ∧ 0xc2 ≤ (0xc2 : Byte).toNat ∧ (0xc2 : Byte).toNat ≤ 0xc3 ∧
    0xc2 ≤ (0xc3 : Byte).toNat ∧ (0xc3 : Byte).toNat ≤ 0xc3 := by
  decide
theorem witness_StatusByteStartsMessage_stOther6 : (st 3 0x80 0x3C 0x40).halted = false ∧ 0xc4 ≤ (0xc4 : Byte).toNat ∧ (0xc4 : Byte).toNat ≤ 0xc7 ∧
    0xc4 ≤ (0xc7 : Byte).toNat ∧ (0xc7 : Byte).toNat ≤ 0xc7 := by
  decide
theorem witness_StatusByteStartsMessage_stOther7 : (st 3 0x80 0x3C 0x40).halted = false ∧ 0xc8 ≤ (0xc8 : Byte).toNat ∧ (0xc8 : Byte).toNat ≤ 0xcf ∧
    0xc8 ≤ (0xcf : Byte).toNat ∧ (0xcf : Byte).toNat ≤ 0xcf := by
  decide
theorem witness_StatusByteStartsMessage_stOther8 : (st 3 0x80 0x3C 0x40).halted = false ∧ 0xd0 ≤ (0xd0 : Byte).toNat ∧ (0xd0 : Byte).toNat ≤ 0xdf ∧
    0xd0 ≤ (0xdf : Byte).toNat ∧ (0xdf : Byte).toNat ≤ 0xdf := by
  decide
theorem witness_StatusByteStartsMessage_stOther9 : (st 3 0x80 0x3C 0x40).halted = false ∧ 0xe0 ≤ (0xe0 : Byte).toNat ∧ (0xe0 : Byte).toNat ≤ 0xff ∧
    0xe0 ≤ (0xff : Byte).toNat ∧ (0xff : Byte).toNat ≤ 0xff := by
  decide
theorem witness_OrphanByteIsDroppedSilently : (st 0 0 0 0).halted = false ∧ (st 0 0 0 0).count = 0 ∧ (0x7F : Byte).toNat < 0x80 := by
  decide
theorem witness_OverflowByteIsReported : (st 3 0xB0 0x07 0x64).halted = false ∧ (st 3 0xB0 0x07 0x64).count = 3 ∧ (0x7F : Byte).toNat < 0x80 := by
  decide
theorem witness_AppendedByteIsStored_one : (st 1 0xC1 0 0).halted = false ∧ (0x40 : Byte).toNat < 0x80 ∧ (st 1 0xC1 0 0).count = 1 ∧ (st 1 0xC1 0 0).buf0 ≠ 0xC0 := by
  decide
theorem witness_AppendedByteIsStored_two : (st 2 0x98 0 0).halted = false ∧ (0x00 : Byte).toNat < 0x80 ∧ (st 2 0x98 0 0).count = 2 ∧
    ¬(0x90 ≤ (st 2 0x98 0 0).buf0.toNat ∧ (st 2 0x98 0 0).buf0.toNat ≤ 0x97) := by
  decide
theorem witness_ThirdByteCompletesRegisterWrite : (st 2 0x97 0x7F 0).halted = false ∧ (0x7F : Byte).toNat < 0x80 ∧ (st 2 0x97 0x7F 0).count = 2 ∧
    0x90 ≤ (st 2 0x97 0x7F 0).buf0.toNat ∧ (st 2 0x97 0x7F 0).buf0.toNat ≤ 0x97 := by
  decide
theorem witness_SecondByteCompletesVolumeWrite_ok : (ans [.ok] (st 1 0xC0 0 0)).halted = false ∧ (0x7F : Byte).toNat < 0x80 ∧ (ans [.ok] (st 1 0xC0 0 0)).count = 1 ∧
    (ans [.ok] (st 1 0xC0 0 0)).buf0 = 0xC0 ∧ (ans [.ok] (st 1 0xC0 0 0)).nextAnswer = .ok := by
  decide
theorem witness_SecondByteCompletesVolumeWrite_fail : (ans [.fail] (st 1 0xC0 0 0)).halted = false ∧ (0x00 : Byte).toNat < 0x80 ∧ (ans [.fail] (st 1 0xC0 0 0)).count = 1 ∧
    (ans [.fail] (st 1 0xC0 0 0)).buf0 = 0xC0 ∧ (ans [.fail] (st 1 0xC0 0 0)).nextAnswer = .fail := by
  decide
theorem witness_RegwrIssuesOneSynthWrite : 0x90 ≤ (0x97 : Byte).toNat ∧ (0x97 : Byte).toNat ≤ 0x97 ∧ (0x7F : Byte).toNat < 0x80 ∧ (0x00 : Byte).toNat < 0x80 ∧
    (st 3 0x97 0x7F 0x00).halted = false := by
  decide
theorem witness_VolsetIssuesOneCodecWrite_ok : (0x7F : Byte).toNat < 0x80 ∧ (ans [.ok] (st 2 0xC0 0x7F 0)).halted = false ∧ (ans [.ok] (st 2 0xC0 0x7F 0)).nextAnswer = .ok := by
  decide
theorem witness_VolsetIssuesOneCodecWrite_fail : (ans [.fail] (st 2 0xC0 0 0)).halted = false ∧ (ans [.fail] (st 2 0xC0 0 0)).nextAnswer = .fail := by
  decide
theorem witness_CompletingByteRunsItsMessage_noteOn : (st 2 0x90 0x7F 0).Inv ∧ (st 2 0x90 0x7F 0).halted = false ∧ (0x7F : Byte).toNat < 0x80 ∧
    (st 2 0x90 0x7F 0).count = 2 ∧ noteonStatus (st 2 0x90 0x7F 0).buf0 = true := by
  decide
theorem witness_CompletingByteRunsItsMessage_progChange : (st 1 0xC0 0 0).Inv ∧ (st 1 0xC0 0 0).halted = false ∧ (0x7F : Byte).toNat < 0x80 ∧
    (st 1 0xC0 0 0).count = 1 ∧ pcStatus (st 1 0xC0 0 0).buf0 = true := by
  decide
theorem witness_RouterReceivesOnlyMessages : (st 2 0x97 0x7F 0).Inv ∧ (st 2 0x97 0x7F 0).halted = false ∧ (0x7F : Byte).toNat < 0x80 ∧ (st 2 0x97 0x7F 0).count = 2 ∧
    completedMessage (((st 2 0x97 0x7F 0).bufWrite 2 0x7F).setCount 3) = some (.noteOn 0b111 0x7F 0x7F) := by
  decide
theorem witness_RouterReceivesOnlyMessages_progChange : (st 1 0xC0 0 0).Inv ∧ (st 1 0xC0 0 0).halted = false ∧
    (0x7F : Byte).toNat < 0x80 ∧ (st 1 0xC0 0 0).count = 1 ∧
    completedMessage (((st 1 0xC0 0 0).bufWrite 1 0x7F).setCount 2) = some (.progChange 0x7F) := by
  decide
theorem witness_FailedCodecWriteHaltsTheBlock : (ans [.fail] (st 2 0xC0 0 0)).halted = false ∧ (ans [.fail] (st 2 0xC0 0 0)).nextAnswer = .fail ∧
    (rx [0x90] { st 0 0xC0 0 0 with halted := true }).halted = true ∧
    (rx [0x90] { st 0 0xC0 0 0 with halted := true }).resetAsserted = false ∧
    step (rx [0x90] { st 0 0xC0 0 0 with halted := true }) = .next (rx [0x90] { st 0 0xC0 0 0 with halted := true }) :=
  ⟨rfl, rfl, rfl, rfl, rfl⟩
theorem witness_HaltedBlockDoesNothing : ({ st 0 0xC0 0 0 with halted := true } : State).halted = true := by
  decide
theorem witness_HaltedForeverWithoutReset : ({ st 0 0 0 0 with halted := true, resetIn := [false] } : State).halted = true ∧ ∀ r ∈ [false], r = false := by
  decide
theorem witness_SuccessfulAnswersNeverHalt : (ans [.ok, .ok] (st 0 0 0 0)).halted = false ∧ [(0xC0 : Byte), 0x40].length ≤ (ans [.ok, .ok] (st 0 0 0 0)).answers.length ∧
    ∀ a ∈ (ans [.ok, .ok] (st 0 0 0 0)).answers, a = .ok := by
  decide
theorem witness_StepRunsDecodedByte : (rx [0xFF, 0x00] (st 3 0x80 0 0)).resetAsserted = false ∧ (rx [0xFF, 0x00] (st 3 0x80 0 0)).halted = false ∧
    (rx [0xFF, 0x00] (st 3 0x80 0 0)).rx = 0xFF :: [0x00] ∧ (Instr.stOther9 0xFF).wellFormed = true := by
  decide
theorem witness_WaitingKeepsAllState : (st 2 0x90 0x10 0).rx = [] ∧ (st 2 0x90 0x10 0).resetAsserted = false := by
  decide
theorem witness_UnselectedOperationIsRefused : (st 3 0 0 0).halted = false ∧ ¬((Instr.dataAppend 0x00).wellFormed = true ∧ (Instr.dataAppend 0x00).selectedAt 3 = true) := by
  decide
theorem witness_StepRefinesTransitionTable : (rx [0x7F] (st 2 0x97 0x7F 0)).Inv ∧ (rx [0x7F] (st 2 0x97 0x7F 0)).resetAsserted = false ∧
    (rx [0x7F] (st 2 0x97 0x7F 0)).halted = false ∧ (rx [0x7F] (st 2 0x97 0x7F 0)).rx = 0x7F :: [] := by
  decide
theorem witness_EveryRunningStateIsReachedUpToStaleBytes : (st 3 0xFF 0x7F 0x00).Inv ∧ (st 3 0xFF 0x7F 0x00).halted = false := by
  decide
theorem witness_RegisterWriteAlwaysArrives : (st 3 0x80 0x3C 0x40).halted = false := by
  decide
theorem witness_VolumeWriteAlwaysArrives : (st 2 0x90 0x10 0).halted = false := by
  decide
theorem witness_DataWithoutStatusIsIgnored : (st 0 0 0 0).count = 0 ∧ ∀ d ∈ [(0x00 : Byte), 0x7F], d.toNat < 0x80 := by
  decide
theorem witness_DropDataExactlyWhileFull : (st 3 0xF0 0x7E 0x7F).halted = false ∧ (st 3 0xF0 0x7E 0x7F).count = 3 ∧ ∀ d ∈ [(0x09 : Byte), 0x7F], d.toNat < 0x80 := by
  decide
theorem witness_DecodingInvertsEncoding : (Instr.dataAppend 0x7F).wellFormed = true ∧ (Instr.dataAppend 0x7F).selectedAt 2 = true := by
  decide
theorem witness_EveryWriteHasExactlyOneMessage : messageInRange [0x97, 0x7F, 0x7F] = true ∧ packAddr 0x97 0x7F = 0x1FF ∧ packVal 0x97 0x7F = 0xFF := by
  decide
theorem witness_InitialisationIssuesTenWrites : (ans (List.replicate 10 .ok) State.reset).answers.take 10 = List.replicate 10 .ok := by
  decide
theorem witness_FailedInitialisationNeverStarts : 9 < 10 ∧ (ans (List.replicate 9 .ok ++ [.fail]) State.reset).answers.take (9 + 1) = List.replicate 9 .ok ++ [.fail] := by
  decide
theorem witness_StepRunsDecodedByte_decodes : decode 3 [0xFF] = .ok (.stOther9 0xFF) := rfl
theorem witness_SuccessfulAnswersNeverHalt_feed : feed [0xC0, 0x40] (ans [.ok, .ok] (st 0 0 0 0)) =
    .next { ans [.ok] (st 0 0xC0 0x40 0) with answersTaken := 1, out := [.codecWrite 2 0x140] } := rfl
theorem witness_HaltedLatchChangesOnlyAsSaid_set : step (rx [0x10] (ans [.fail] (st 1 0xC0 0 0))) =
      .next { st 0 0xC0 0x10 0 with halted := true, answersTaken := 1, out := [.codecWrite 2 0x110] } ∧
    (rx [0x10] (ans [.fail] (st 1 0xC0 0 0))).halted = false := ⟨rfl, rfl⟩
theorem witness_HaltedLatchChangesOnlyAsSaid_cleared :
    step { st 0 0xC0 0x10 0 with halted := true, resetIn := [true] } = .next (st 0 0 0 0) := rfl
theorem witness_StepKeepsInvariant : (rx [0x40] (st 1 0xB0 0 0)).Inv ∧
    step (rx [0x40] (st 1 0xB0 0 0)) = .next (st 2 0xB0 0x40 0) := ⟨by decide, rfl⟩
theorem witness_AtMostOneOutputPerStep : step (rx [0x91] (st 2 0x90 0x10 0)) =
    .next { st 1 0x91 0x10 0 with out := [.diag (.dropIncomplete 0x90)] } := rfl
theorem witness_OutputsKeepTheirOrder : stepN 2 (rx [0x91, 0x92] (st 2 0x90 0x10 0)) =
    .next { st 1 0x92 0x10 0 with out := [.diag (.dropIncomplete 0x90), .diag (.dropIncomplete 0x91)] } := rfl
theorem witness_StaleBytesAreNeverRead : SameButStale (rx [0x90] (st 1 0xB0 0x11 0x22)) (rx [0x90] (st 1 0xB0 0x33 0x44)) ∧
    step (rx [0x90] (st 1 0xB0 0x11 0x22)) = .next { st 1 0x90 0x11 0x22 with out := [.diag (.dropIncomplete 0xB0)] } ∧
    step (rx [0x90] (st 1 0xB0 0x33 0x44)) = .next { st 1 0x90 0x33 0x44 with out := [.diag (.dropIncomplete 0xB0)] } :=
  ⟨by constructor <;> decide, rfl, rfl⟩
theorem witness_AnswersAreReadOnlyByCodecWrites : step (rx [0x40] (st 1 0xB0 0 0)) = .next (st 2 0xB0 0x40 0) ∧
    ∀ r v, (st 2 0xB0 0x40 0).out ≠ (rx [0x40] (st 1 0xB0 0 0)).out ++ [.codecWrite r v] :=
  ⟨rfl, by intro r v h; cases h⟩
theorem witness_OperationsLeaveTheInputAlone : exec (.stPc 0xC0) (st 0 0 0 0) = .next (st 1 0xC0 0 0) := rfl
theorem witness_StepsOverReceivedBytesAreTheRun : feed [0x80, 0x3C] { State.reset with rx := [], resetIn := [] } =
    .next (st 2 0x80 0x3C 0) ∧ (st 2 0x80 0x3C 0).halted = false := ⟨rfl, rfl⟩
theorem witness_ChunkBoundariesAreInvisible_waiting : (st 2 0x90 0x10 0).rx = [] ∧
    (∀ r ∈ (st 2 0x90 0x10 0).resetIn, r = false) ∧ stepN 2 (st 2 0x90 0x10 0) = .next (st 2 0x90 0x10 0) :=
  ⟨rfl, by decide, rfl⟩
theorem witness_WritesAreBoundedByStatusBytes : feed [0x7F] (st 2 0x90 0x10 0) =
    .next { st 0 0x90 0x10 0x7F with out := [.synthWrite 0x010 0x7F] } := rfl
theorem witness_DropDataExactlyWhileFull_byte : (st 3 0xF0 0x7E 0x7F).halted = false ∧ blockStep 0x09 (st 3 0xF0 0x7E 0x7F) =
    .next { st 3 0xF0 0x7E 0x7F with out := [.diag (.dropData 0x09)] } := ⟨rfl, rfl⟩
theorem witness_DropIncompleteExactlyInsideMessage : (st 1 0xFF 0 0).Inv ∧ (st 1 0xFF 0 0).halted = false ∧
    blockStep 0x80 (st 1 0xFF 0 0) = .next { st 1 0x80 0 0 with out := [.diag (.dropIncomplete 0xFF)] } :=
  ⟨by decide, rfl, rfl⟩
theorem witness_UnrecognisedStatusNeverWrites : (st 1 0x98 0 0).halted = false ∧ (st 1 0x98 0 0).count ≠ 0 ∧
    noteonStatus (st 1 0x98 0 0).buf0 = false ∧ pcStatus (st 1 0x98 0 0).buf0 = false ∧
    (∀ d ∈ [(0x00 : Byte), 0x7F], d.toNat < 0x80) ∧ feed [0x00, 0x7F] (st 1 0x98 0 0) = .next (st 3 0x98 0x00 0x7F) :=
  ⟨rfl, by decide, rfl, rfl, by decide, rfl⟩
theorem witness_EncodingInvertsDecoding : decode 3 [0x97, 0x7F, 0x00] = .ok (.regwr 0x1FF 0x80) := rfl
theorem witness_OnlyTheVolumeRegisterIsWritten : step (rx [0x7F] (ans [.ok] (st 1 0xC0 0 0))) =
    .next { st 0 0xC0 0x7F 0 with answersTaken := 1, out := [.codecWrite 2 0x17F] } := rfl
theorem witness_WriteSpacesChangeOnlyWhereStored : exec (.regwr 0x1FF 0xFF) (st 0 0 0 0) =
    .next { st 0 0 0 0 with out := [.synthWrite 0x1FF 0xFF] } := rfl
theorem witness_WriteIsTheLastValueIssued : (st 2 0x90 0 0).halted = false ∧ (st 2 0x90 0 0).count = 2 ∧
    noteonStatus (st 2 0x90 0 0).buf0 = true ∧ exec (.dataAppend 0x00) (st 2 0x90 0 0) =
      .next { st 0 0x90 0 0 with out := [.synthWrite 0 0] } := ⟨rfl, rfl, rfl, rfl⟩

end Sys2Proof.Tests
end

section
/-! The halted latch (R13, R19): what reset, one byte and one step do to it. -/

namespace Sys2Proof.Machine

variable {s t : State}

/-- One codec write and nothing else went out between `s` and `t`. -/
def IssuesCodecWrite (s t : State) : Prop := ∃ r v, t.out = s.out ++ [.codecWrite r v]

theorem IssuesCodecWrite.of_out {r : CodecReg} {v : CodecVal} (h : t.out = s.out ++ [.codecWrite r v]) :
    IssuesCodecWrite s t := ⟨r, v, h⟩

theorem not_issuesCodecWrite_of_out_eq (h : t.out = s.out) : ¬ IssuesCodecWrite s t := by
  rintro ⟨r, v, hw⟩
  simp [h] at hw

theorem not_issuesCodecWrite_of_diag {e : DiagEvent} (h : t.out = s.out ++ [.diag e]) :
    ¬ IssuesCodecWrite s t := by
  rintro ⟨r, v, hw⟩
  simp [h] at hw

theorem not_issuesCodecWrite_of_synthWrite {a : SynthAddr} {v : Byte} (h : t.out = s.out ++ [.synthWrite a v]) :
    ¬ IssuesCodecWrite s t := by
  rintro ⟨r, w, hw⟩
  simp [h] at hw

/-- One byte on a running block either issues a codec write, and `halted` then tells its answer (R93, R110), or
issues none, and the block runs on (R84). -/
theorem blockStep_halted_or_noCodecWrite {b : Byte} (hh : s.halted = false) (h : blockStep b s = .next t) :
    (IssuesCodecWrite s t ∧ t.halted = decide (s.nextAnswer = .fail)) ∨
    (¬ IssuesCodecWrite s t ∧ t.halted = false) := by
  obtain ⟨t', ht', hcases⟩ := blockStep_cases s b hh
  obtain rfl : t' = t := by rw [ht'] at h; cases h; rfl
  rcases hcases with ⟨-, rfl⟩ | ⟨-, -, rfl⟩ | ⟨-, -, rfl⟩ | ⟨-, -, -, rfl⟩ | ⟨-, -, -, rfl⟩ | ⟨-, -, -, rfl⟩ |
    ⟨-, -, -, rfl⟩
  · -- a status byte, alone or dropping a message in progress
    refine .inr ⟨?_, hh⟩
    by_cases h0 : s.count = 0
    · exact not_issuesCodecWrite_of_out_eq (if_pos h0)
    · exact not_issuesCodecWrite_of_diag (if_neg h0)
  · exact .inr ⟨not_issuesCodecWrite_of_diag rfl, hh⟩ -- an overflow byte
  · exact .inr ⟨not_issuesCodecWrite_of_out_eq rfl, hh⟩ -- an orphan byte
  · exact .inr ⟨not_issuesCodecWrite_of_out_eq rfl, hh⟩ -- a second byte that is stored
  · exact .inl ⟨.of_out rfl, rfl⟩ -- the byte that completes a volume write
  · exact .inr ⟨not_issuesCodecWrite_of_out_eq rfl, hh⟩ -- a third byte that is stored
  · exact .inr ⟨not_issuesCodecWrite_of_synthWrite rfl, hh⟩ -- the byte that completes a register write

/-- The same for a step: a reset and a wait leave a running block running and issue nothing. -/
theorem step_halted_or_noCodecWrite (hh : s.halted = false) (h : step s = .next t) :
    (IssuesCodecWrite s t ∧ t.halted = decide (s.nextAnswer = .fail)) ∨
    (¬ IssuesCodecWrite s t ∧ t.halted = false) := by
  rcases step_cases s with ⟨-, hs⟩ | ⟨-, -, hs⟩ | ⟨b, rest, -, -, -, hs⟩ <;> rw [hs] at h
  · cases h
    exact .inr ⟨not_issuesCodecWrite_of_out_eq rfl, rfl⟩
  · cases h
    exact .inr ⟨not_issuesCodecWrite_of_out_eq rfl, hh⟩
  · exact blockStep_halted_or_noCodecWrite (s := { s with rx := rest, resetIn := s.resetIn.tail }) hh h

/-- A step sets `halted` on a running block exactly where it issues a codec write answered `failure` (R110). -/
theorem step_halted_iff (hh : s.halted = false) (h : step s = .next t) :
    t.halted = true ↔ s.nextAnswer = .fail ∧ IssuesCodecWrite s t := by
  rcases step_halted_or_noCodecWrite hh h with ⟨hw, ht⟩ | ⟨hw, ht⟩
  · simp [hw, ht]
  · simp [hw, ht]

/-- A step of a halted block is a reset, or it passes the boundary and does nothing else (R13, R24). -/
theorem step_of_halted (hh : s.halted = true) :
    (s.resetAsserted = true ∧ step s = .next (applyReset s.passBoundary)) ∨
    (s.resetAsserted = false ∧ step s = .next s.passBoundary) := by
  rcases step_cases s with hreset | ⟨hr, -, hs⟩ | ⟨b, rest, -, hrun, -, -⟩
  · exact .inl hreset
  · exact .inr ⟨hr, hs⟩
  · simp [hh] at hrun

/-- Only a reset clears `halted` (R13). -/
theorem resetAsserted_of_step_clears_halted (hh : s.halted = true) (h : step s = .next t) (ht : t.halted = false) :
    s.resetAsserted = true := by
  rcases step_of_halted hh with ⟨hr, -⟩ | ⟨-, hs⟩
  · exact hr
  · rw [hs] at h
    cases h
    simp [hh] at ht

/-- A halted block takes no byte and outputs nothing, in a step with a reset or without (R13, R125). -/
theorem step_rx_out_of_halted (hh : s.halted = true) (h : step s = .next t) : t.rx = s.rx ∧ t.out = s.out := by
  rcases step_of_halted hh with ⟨-, hs⟩ | ⟨-, hs⟩ <;>
  · rw [hs] at h
    cases h
    exact ⟨rfl, rfl⟩

/-- Right after reset no message is in progress (R19). -/
@[simp] theorem State.reset_count : State.reset.count = 0 := rfl

/-- Right after reset the block runs (R13, R19). -/
@[simp] theorem State.reset_halted : State.reset.halted = false := rfl

/-- Settles O18: each clause is a fact about one step, from the cases of `step_cases`. -/
theorem haltedLatchChangesOnlyAsSaid : Obligations.HaltedLatchChangesOnlyAsSaid :=
  ⟨State.reset_halted,
    fun _ _ h hh => step_halted_iff hh h,
    fun _ _ h hh ht => resetAsserted_of_step_clears_halted hh h ht,
    fun _ _ h hh => step_rx_out_of_halted hh h⟩

/-- Settles O1: the two fields of the state right after reset. -/
theorem resetIsEmptyAndRunning : Obligations.ResetIsEmptyAndRunning :=
  ⟨State.reset_count, State.reset_halted⟩

end Sys2Proof.Machine
end

section
/-! PROOFS. The packed fields bit by bit (R56, R57, R58). -/

namespace Sys2Proof.Machine

-- The masks, bit by bit (R7)

/-- The data mask keeps bits 6 to 0 and clears the rest (P9). -/
theorem dataMask_getLsbD (i : Nat) : dataMask.getLsbD i = decide (i < 7) := by
  by_cases hi : i < 8
  · interval_cases i <;> rfl
  · rw [BitVec.getLsbD_of_ge _ _ (by omega)]
    exact (decide_eq_false (by omega)).symm

/-- A masked data byte has the byte's own bits 6 to 0. -/
theorem and_dataMask_getLsbD_of_lt (b : Byte) {i : Nat} (hi : i < 7) : (b &&& dataMask).getLsbD i = b.getLsbD i := by
  simp [dataMask_getLsbD, hi]

/-- A masked data byte has no bit from 7 up. -/
theorem and_dataMask_getLsbD_of_ge (b : Byte) {i : Nat} (hi : 7 ≤ i) : (b &&& dataMask).getLsbD i = false := by
  simp [dataMask_getLsbD, hi]

/-- The address mask keeps bits 1 and 0 (P7). -/
theorem and_addrHiMask_getLsbD_of_lt (b : Byte) {i : Nat} (hi : i < 2) :
    (b &&& addrHiMask).getLsbD i = b.getLsbD i := by
  interval_cases i <;> simp [addrHiMask]

/-- The value mask keeps bit 2 (P8). -/
theorem and_valHiMask_getLsbD_two (b : Byte) : (b &&& valHiMask).getLsbD 2 = b.getLsbD 2 := by
  simp [valHiMask]

-- `PackAddr` (R56)

/-- Below the shift, the address is the second byte. -/
theorem packAddr_getLsbD_of_lt (b0 b1 : Byte) {i : Nat} (hi : i < 7) :
    (packAddr b0 b1).getLsbD i = b1.getLsbD i := by
  have hw : i < 9 := by omega
  simp [packAddr, addrHiShift, dataMask_getLsbD, hi, hw]

/-- The two bits of the address from the shift up are those of the status byte. -/
theorem packAddr_getLsbD_add_seven (b0 b1 : Byte) {j : Nat} (hj : j < 2) :
    (packAddr b0 b1).getLsbD (j + 7) = b0.getLsbD j := by
  have hw : j + 7 < 9 := by omega
  have hw' : j < 9 := by omega
  rw [packAddr, BitVec.getLsbD_or, BitVec.getLsbD_setWidth, and_dataMask_getLsbD_of_ge b1 (by omega),
    addrHiShift, BitVec.getLsbD_shiftLeft, Nat.add_sub_cancel, BitVec.getLsbD_setWidth,
    and_addrHiMask_getLsbD_of_lt b0 hj]
  simp [hw, hw']

-- `PackVal` (R57)

/-- Below bit 7, the value is the third byte: the shifted status bit does not reach there. -/
theorem packVal_getLsbD_of_lt (b0 b2 : Byte) {i : Nat} (hi : i < 7) :
    (packVal b0 b2).getLsbD i = b2.getLsbD i := by
  rw [packVal, BitVec.getLsbD_or, and_dataMask_getLsbD_of_lt b2 hi]
  interval_cases i <;> simp [valHiMask, valHiShift]

/-- Bit 7 of the value is bit 2 of the status byte. -/
theorem packVal_getLsbD_seven (b0 b2 : Byte) : (packVal b0 b2).getLsbD 7 = b0.getLsbD 2 := by
  rw [packVal, BitVec.getLsbD_or, and_dataMask_getLsbD_of_ge b2 le_rfl, valHiShift, BitVec.getLsbD_shiftLeft,
    and_valHiMask_getLsbD_two]
  simp

-- `PackVol` (R58)

/-- The 7-bit level holds all of a masked byte, whose bits from 7 up are 0. -/
theorem volumeLevel_setWidth (b1 : Byte) : (volumeLevel b1).setWidth 9 = (b1 &&& dataMask).setWidth 9 := by
  apply BitVec.eq_of_getLsbD_eq
  intro i hi
  rw [volumeLevel, BitVec.getLsbD_setWidth, BitVec.getLsbD_setWidth, BitVec.getLsbD_setWidth]
  by_cases h7 : i < 7
  · simp [h7]
  · rw [and_dataMask_getLsbD_of_ge b1 (by omega), Bool.and_false]

/-- The codec value by its formula. -/
theorem packVol_eq (b1 : Byte) : packVol b1 = 1 <<< 8 ||| (b1 &&& 0x7F).setWidth 9 := by
  rw [packVol, volumeValue, volumeLevel_setWidth]
  rfl

/-- The flag of the codec value is its bit 8 (P11). -/
theorem codecVolFlag_getLsbD (i : Nat) : codecVolFlag.getLsbD i = decide (i = 8) := by
  by_cases hi : i < 9
  · interval_cases i <;> rfl
  · rw [BitVec.getLsbD_of_ge _ _ (by omega)]
    exact (decide_eq_false (by omega)).symm

/-- The codec value bit by bit: the flag in bit 8, the byte in bits 6 to 0, and 0 elsewhere. -/
theorem packVol_getLsbD (b1 : Byte) (i : Nat) :
    (packVol b1).getLsbD i = (decide (i = 8) || (decide (i < 7) && b1.getLsbD i)) := by
  rw [packVol, volumeValue, volumeLevel_setWidth, BitVec.getLsbD_or, codecVolFlag_getLsbD, BitVec.getLsbD_setWidth]
  by_cases h7 : i < 7
  · have hw : i < 9 := by omega
    simp [and_dataMask_getLsbD_of_lt b1 h7, h7, hw]
  · simp [and_dataMask_getLsbD_of_ge b1 (by omega : 7 ≤ i), h7]

/-- Below bit 7, the codec value is the second byte. -/
theorem packVol_getLsbD_of_lt (b1 : Byte) {i : Nat} (hi : i < 7) : (packVol b1).getLsbD i = b1.getLsbD i := by
  have h8 : i ≠ 8 := by omega
  rw [packVol_getLsbD]
  simp [hi, h8]

/-- Settles O44: each packed field by its formula, then its bits from the lemmas above. -/
theorem packedFieldsBitByBit : Obligations.PackedFieldsBitByBit := fun b0 b1 b2 =>
  ⟨⟨rfl, packAddr_getLsbD_add_seven b0 b1 (j := 1) (by decide), packAddr_getLsbD_add_seven b0 b1 (j := 0) (by decide),
      fun _ hi => packAddr_getLsbD_of_lt b0 b1 hi⟩,
    ⟨rfl, packVal_getLsbD_seven b0 b2, fun _ hi => packVal_getLsbD_of_lt b0 b2 hi⟩,
    ⟨packVol_eq b1, rfl, packVol_getLsbD b1 8, packVol_getLsbD b1 7, fun _ hi => packVol_getLsbD_of_lt b1 hi⟩⟩

end Sys2Proof.Machine
end

section
/-! PROOFS. The byte-level operations on a running block, each with its exact next state (R71, R75 to R79). -/

namespace Sys2Proof.Machine

variable {s : State} {b : Byte}

-- The rows of the opcode table as ranges of values (R50, R51)

/-- A byte in the block of `2 ^ k` values that begins at `m` has the bits of `m` above its low `k` bits. -/
theorem and_mask_beq_of_range {mask m : Byte} (k : Nat) (hmask : mask = BitVec.allOnes 8 <<< k)
    (hm : 2 ^ k ∣ m.toNat) (hlo : m.toNat ≤ b.toNat) (hhi : b.toNat ≤ m.toNat + (2 ^ k - 1)) :
    (b &&& mask == m) = true := by
  obtain ⟨q, hq⟩ := hm
  have hdiv : b.toNat / 2 ^ k = q := by
    have hpos : 0 < 2 ^ k := by positivity
    rw [Nat.div_eq_iff hpos, Nat.mul_comm q, ← hq]
    exact ⟨hlo, by omega⟩
  rw [beq_iff_eq, hmask, ← BitVec.shiftLeft_ushiftRight]
  apply BitVec.eq_of_toNat_eq
  rw [BitVec.toNat_shiftLeft, BitVec.toNat_ushiftRight, Nat.shiftRight_eq_div_pow, Nat.shiftLeft_eq, hdiv,
    Nat.mul_comm, ← hq, Nat.mod_eq_of_lt m.isLt]

/-- A byte below 0x80 lies in the row of the data bytes (R50). -/
theorem data_row_of_lt (hb : b.toNat < 0x80) : (b &&& 0x80 == 0x00) = true := by
  rw [dataWellFormed_iff, (isData_iff b).mpr hb]
  rfl

-- The operations on a running block, where the tests of R70 select them

/-- A status byte in its row is STATUS, at every count (R71). -/
theorem exec_status_of_wellFormed {i : Instr} (hh : s.halted = false) (hf : IsStatusForm b i)
    (hw : i.wellFormed = true) :
    exec i s = .next { s with
      buf0 := b, count := 1,
      out := if s.count = 0 then s.out else s.out ++ [.diag (.dropIncomplete s.buf0)] } := by
  rw [exec_status s hf, byteOperation_run s hh hw (selectedAt_of_status hf s.count), statusByte_eq]

/-- A data byte at count 0 is an orphan (R75). -/
theorem exec_dataOrphan_of_data (hh : s.halted = false) (hb : b.toNat < 0x80) (hc : s.count = 0) :
    exec (.dataOrphan b) s = .next (orphanByte b s) :=
  byteOperation_run s hh (data_row_of_lt hb) (by simp [Instr.selectedAt, hc])

/-- A data byte at count 3 overflows (R76). -/
theorem exec_dataOverflow_of_data (hh : s.halted = false) (hb : b.toNat < 0x80) (hc : s.count = 3) :
    exec (.dataOverflow b) s = .next (overflowByte b s) :=
  byteOperation_run s hh (data_row_of_lt hb) (by simp [Instr.selectedAt, hc])

/-- A data byte at count 1 or 2 is appended (R77). -/
theorem exec_dataAppend_of_data (hh : s.halted = false) (hb : b.toNat < 0x80) (hc : s.count = 1 ∨ s.count = 2) :
    exec (.dataAppend b) s = .next (appendByte b s) :=
  byteOperation_run s hh (data_row_of_lt hb) (by simpa [Instr.selectedAt] using hc)

/-- The byte after 0xC0 issues the volume write of its level; `halted` then tells the answer (R79, R93, R110). -/
theorem appendByte_completes_volume (hh : s.halted = false) (hc : s.count = 1) (h0 : s.buf0 = 0xC0) :
    appendByte b s = { s with
      buf1 := b, count := 0, answers := s.answers.tail, answersTaken := s.answersTaken + 1,
      halted := decide (s.nextAnswer = .fail), out := s.out ++ [.codecWrite 2 (packVol b)] } := by
  have hn : ({ s with buf1 := b, count := 2 } : State).nextAnswer = s.nextAnswer := rfl
  rw [appendByte_one s b hc, if_pos ((pcStatus_iff s.buf0).mpr h0), volset_eq, hn]
  cases s.nextAnswer with
  | ok => simp [codecWrite_eq, State.setCount, hh, packVol, volumeValue, codecVolFlag]
  | fail => simp [codecWrite_eq, State.setCount, packVol, volumeValue, codecVolFlag]

-- The obligations

/-- Settles O5: in each of the eleven rows the range of values is the row's mask and match, and the operation is
STATUS. -/
theorem statusByteStartsMessage : Obligations.StatusByteStartsMessage := by
  intro s b hh t
  have run {i : Instr} (hf : IsStatusForm b i) (hw : i.wellFormed = true) : exec i s = .next t :=
    exec_status_of_wellFormed hh hf hw
  exact ⟨
    fun hlo hhi => run (by simp [IsStatusForm]) (and_mask_beq_of_range 3 rfl (by decide) hlo hhi),
    fun h => run (by simp [IsStatusForm]) (and_mask_beq_of_range 0 rfl (by decide) h.ge h.le),
    fun hlo hhi => run (by simp [IsStatusForm]) (and_mask_beq_of_range 4 rfl (by decide) hlo hhi),
    fun hlo hhi => run (by simp [IsStatusForm]) (and_mask_beq_of_range 3 rfl (by decide) hlo hhi),
    fun hlo hhi => run (by simp [IsStatusForm]) (and_mask_beq_of_range 5 rfl (by decide) hlo hhi),
    fun h => run (by simp [IsStatusForm]) (and_mask_beq_of_range 0 rfl (by decide) h.ge h.le),
    fun hlo hhi => run (by simp [IsStatusForm]) (and_mask_beq_of_range 1 rfl (by decide) hlo hhi),
    fun hlo hhi => run (by simp [IsStatusForm]) (and_mask_beq_of_range 2 rfl (by decide) hlo hhi),
    fun hlo hhi => run (by simp [IsStatusForm]) (and_mask_beq_of_range 3 rfl (by decide) hlo hhi),
    fun hlo hhi => run (by simp [IsStatusForm]) (and_mask_beq_of_range 4 rfl (by decide) hlo hhi),
    fun hlo => run (by simp [IsStatusForm]) (and_mask_beq_of_range 5 rfl (by decide) hlo (Nat.le_of_lt_succ b.isLt))⟩

/-- Settles O6: DATA.ORPHAN is `skip`. -/
theorem orphanByteIsDroppedSilently : Obligations.OrphanByteIsDroppedSilently :=
  fun _ _ hh hc hb => exec_dataOrphan_of_data hh hb hc

/-- Settles O7: DATA.OVERFLOW is the one event. -/
theorem overflowByteIsReported : Obligations.OverflowByteIsReported :=
  fun _ _ hh hc hb => exec_dataOverflow_of_data hh hb hc

/-- Settles O9: the range of `buf[0]` is the Note-On test, which completes the message at count 2. -/
theorem thirdByteCompletesRegisterWrite : Obligations.ThirdByteCompletesRegisterWrite := by
  intro s b hh hb hc hlo hhi
  have hn : noteonStatus s.buf0 = true := (noteonStatus_iff s.buf0).mpr ⟨hlo, hhi⟩
  rw [exec_dataAppend_of_data hh hb (.inr hc), appendByte_two s b hc, if_pos hn]
  rfl

/-- Settles O10: one completion, and `halted` by the answer. -/
theorem secondByteCompletesVolumeWrite : Obligations.SecondByteCompletesVolumeWrite := by
  intro s b hh hb hc h0 t
  have run := exec_dataAppend_of_data hh hb (.inl hc)
  rw [appendByte_completes_volume hh hc h0, packVol_eq] at run
  constructor
  · intro hok
    rw [run]
    simp [t, hok, hh]
  · intro hfail
    rw [run]
    simp [t, hfail]

end Sys2Proof.Machine
end

section
/-! PROOFS. Chunks of the stream and waits between them (R81). -/

namespace Sys2Proof.Machine

variable {s t : State}

-- Bytes delivered behind those waiting on RX

theorem State.deliver_deliver (s : State) (bs cs : List Byte) :
    (s.deliver bs).deliver cs = s.deliver (bs ++ cs) := by
  simp [State.deliver]

/-- The volume operation reads nothing of RX, whichever its answer. -/
theorem volset_deliver (l : Level) (bs : List Byte) (s : State) :
    volset l (s.deliver bs) = (volset l s).deliver bs := by
  rw [volset_eq, volset_eq, State.nextAnswer_deliver]
  cases s.nextAnswer <;> rfl

/-- The Router reads nothing of RX. -/
theorem route_deliver (m : DecodedMessage) (bs : List Byte) (s : State) :
    route m (s.deliver bs) = (route m s).deliver bs := by
  cases m with
  | noteOn hka d1 d2 => rfl
  | progChange d1 => exact volset_deliver _ bs s

/-- The completion test reads nothing of RX. -/
theorem completionTest_deliver (bs : List Byte) (s : State) :
    completionTest (s.deliver bs) = (completionTest s).deliver bs := by
  have hsame : completedMessage (s.deliver bs) = completedMessage s := rfl
  cases hm : completedMessage s with
  | none => rw [completionTest_none s hm, completionTest_none _ (hsame.trans hm)]
  | some m =>
    rw [completionTest_some s hm, completionTest_some _ (hsame.trans hm), route_deliver]
    rfl

/-- DATA.APPEND reads nothing of RX. -/
theorem appendByte_deliver (b : Byte) (bs : List Byte) (s : State) :
    appendByte b (s.deliver bs) = (appendByte b s).deliver bs :=
  completionTest_deliver bs (s.appended b)

/-- One byte runs the same whether or not more bytes have been delivered behind it. -/
theorem blockStep_deliver {b : Byte} (bs : List Byte) (h : blockStep b s = .next t) :
    blockStep b (s.deliver bs) = .next (t.deliver bs) := by
  cases hh : s.halted with
  | true =>
    rw [blockStep_halted s b hh] at h
    cases h
    exact blockStep_halted _ b hh
  | false =>
    rw [blockStep_running s b hh] at h
    cases h
    rw [blockStep_running (s.deliver bs) b hh]
    rw [State.deliver_count]
    congr 1
    split
    · rw [statusByte_eq, statusByte_eq]; rfl
    split
    · rfl
    split
    · rfl
    · exact appendByte_deliver b bs s

/-- Every byte in every state has a next state, with the same bytes on RX (R41, R88). -/
theorem exists_blockStep_next (b : Byte) (s : State) : ∃ t, blockStep b s = .next t ∧ t.rx = s.rx := by
  cases hh : s.halted with
  | true => exact ⟨s, blockStep_halted s b hh, rfl⟩
  | false =>
    obtain ⟨t, ht, hcases⟩ := blockStep_cases s b hh
    refine ⟨t, ht, ?_⟩
    rcases hcases with ⟨-, rfl⟩ | ⟨-, -, rfl⟩ | ⟨-, -, rfl⟩ | ⟨-, -, -, rfl⟩ | ⟨-, -, -, rfl⟩ | ⟨-, -, -, rfl⟩ |
      ⟨-, -, -, rfl⟩ <;> rfl

-- One step, by what it meets

/-- A reset asserted at the boundary wins over everything else (R24, R127). -/
theorem step_of_resetAsserted (hr : s.resetAsserted = true) : step s = .next (applyReset s.passBoundary) := by
  simp [step, boundaryStep, hr]

/-- A step that can take no byte only passes the boundary (R13, R121). -/
theorem step_of_no_byte (hr : s.resetAsserted = false) (hno : s.halted = true ∨ s.rx = []) :
    step s = .next s.passBoundary := by
  rcases step_cases s with ⟨hr', -⟩ | ⟨-, -, hs⟩ | ⟨b, rest, -, hh, hb, -⟩
  · simp [hr] at hr'
  · exact hs
  · simp [hh, hb] at hno

/-- A running block with no reset takes the next byte (R20). -/
theorem step_of_byte {b : Byte} {rest : List Byte} (hr : s.resetAsserted = false) (hh : s.halted = false)
    (hb : s.rx = b :: rest) : step s = blockStep b { s with rx := rest, resetIn := s.resetIn.tail } := by
  simp [step, boundaryStep, State.takeByte, State.passBoundary, State.dropByte, hr, hh, hb]

/-- Every step has a next state, and takes at most one byte (R5). -/
theorem exists_step_next (s : State) : ∃ t, step s = .next t ∧ s.rx.length ≤ t.rx.length + 1 := by
  rcases step_cases s with ⟨-, hs⟩ | ⟨-, -, hs⟩ | ⟨b, rest, -, -, hb, hs⟩
  · exact ⟨_, hs, by simp⟩
  · exact ⟨_, hs, by simp⟩
  · obtain ⟨t, ht, hrx⟩ := exists_blockStep_next b { s with rx := rest, resetIn := s.resetIn.tail }
    exact ⟨t, hs.trans ht, by simp [hb, hrx]⟩

/-- While a byte waits on RX, what is delivered behind it does not change the step. -/
theorem step_deliver (bs : List Byte) (hrx : s.rx ≠ []) (h : step s = .next t) :
    step (s.deliver bs) = .next (t.deliver bs) := by
  cases hr : s.resetAsserted with
  | true =>
    rw [step_of_resetAsserted hr] at h
    cases h
    exact step_of_resetAsserted (s := s.deliver bs) hr
  | false =>
    cases hh : s.halted with
    | true =>
      rw [step_of_no_byte hr (.inl hh)] at h
      cases h
      exact step_of_no_byte (s := s.deliver bs) hr (.inl hh)
    | false =>
      obtain ⟨b, rest, hb⟩ := List.exists_cons_of_ne_nil hrx
      rw [step_of_byte hr hh hb] at h
      rw [step_of_byte (s := s.deliver bs) (b := b) (rest := rest ++ bs) hr hh (by simp [hb])]
      exact blockStep_deliver bs h

-- Runs of steps

/-- Every number of steps has a next state. -/
theorem exists_stepN_next (n : Nat) (s : State) : ∃ t, stepN n s = .next t := by
  induction n generalizing s with
  | zero => exact ⟨s, rfl⟩
  | succ n ih =>
    obtain ⟨u, hu, -⟩ := exists_step_next s
    rw [stepN_succ s n hu]
    exact ih u

/-- A run of steps goes on from where its first part ends. -/
theorem stepN_add (m n : Nat) (h : stepN m s = .next t) : stepN (m + n) s = stepN n t := by
  induction m generalizing s with
  | zero => cases h; rw [Nat.zero_add]
  | succ m ih =>
    obtain ⟨u, hu, -⟩ := exists_step_next s
    rw [stepN_succ s m hu] at h
    rw [Nat.succ_add, stepN_succ s (m + n) hu]
    exact ih h

/-- As many steps as bytes wait on RX never run out of bytes, so what is delivered behind those does not change the
run. -/
theorem stepN_deliver (n : Nat) (bs : List Byte) (hn : n ≤ s.rx.length) (h : stepN n s = .next t) :
    stepN n (s.deliver bs) = .next (t.deliver bs) := by
  induction n generalizing s with
  | zero => cases h; rfl
  | succ n ih =>
    obtain ⟨u, hu, hlen⟩ := exists_step_next s
    have hrx : s.rx ≠ [] := List.ne_nil_of_length_pos (by omega)
    rw [stepN_succ s n hu] at h
    rw [stepN_succ (s.deliver bs) n (step_deliver bs hrx hu)]
    exact ih (by omega) h

/-- Steps with no byte and no reset only pass the boundaries: there is no timeout (R81, R121). -/
theorem stepN_of_waiting (n : Nat) (hrx : s.rx = []) (hr : ∀ r ∈ s.resetIn, r = false) :
    stepN n s = .next { s with resetIn := s.resetIn.drop n } := by
  induction n generalizing s with
  | zero => rfl
  | succ n ih =>
    have hno : s.resetAsserted = false := by
      cases hres : s.resetIn with
      | nil => simp [State.resetAsserted, hres]
      | cons r rs => simpa [State.resetAsserted, hres] using hr r (by simp [hres])
    rw [stepN_succ s n (step_of_no_byte hno (.inr hrx)),
      ih (s := s.passBoundary) hrx fun r hmem => hr r (List.mem_of_mem_tail hmem)]
    simp [State.passBoundary]

-- Runs of chunks

/-- The chunks after the first run from where the first one's steps end. -/
theorem runChunks_cons (chunk : List Byte) (chunks : List (List Byte))
    (h : stepN chunk.length (s.deliver chunk) = .next t) : runChunks (chunk :: chunks) s = runChunks chunks t := by
  simp [runChunks, h]

/-- One chunk is its delivery and its steps. -/
theorem runChunks_singleton (chunk : List Byte) (s : State) :
    runChunks [chunk] s = stepN chunk.length (s.deliver chunk) := by
  obtain ⟨t, ht⟩ := exists_stepN_next chunk.length (s.deliver chunk)
  rw [runChunks_cons chunk [] ht, ht]
  rfl

/-- Two chunks run as the one chunk of their bytes: the second may as well be delivered before the first is
processed. -/
theorem runChunks_pair (c d : List Byte) (h : stepN c.length (s.deliver c) = .next t) :
    runChunks [d] t = runChunks [c ++ d] s := by
  have hboth : stepN c.length (s.deliver (c ++ d)) = .next (t.deliver d) := by
    rw [← State.deliver_deliver]
    exact stepN_deliver c.length d (by simp) h
  rw [runChunks_singleton, runChunks_singleton, List.length_append, stepN_add c.length d.length hboth]

/-- However the stream is cut, the run is that of all its bytes in one chunk (R81). -/
theorem runChunks_eq_flatten (chunks : List (List Byte)) (s : State) :
    runChunks chunks s = runChunks [chunks.flatten] s := by
  induction chunks generalizing s with
  | nil => simp [runChunks, stepN, State.deliver]
  | cons c cs ih =>
    obtain ⟨t, ht⟩ := exists_stepN_next c.length (s.deliver c)
    calc runChunks (c :: cs) s
        = runChunks cs t := runChunks_cons c cs ht
      _ = runChunks [cs.flatten] t := ih t
      _ = runChunks [c ++ cs.flatten] s := runChunks_pair c cs.flatten ht

/-- Settles O33: by induction over the chunks, and by the state that a wait of any length ends in. -/
theorem chunkBoundariesAreInvisible : Obligations.ChunkBoundariesAreInvisible := by
  refine ⟨runChunks_eq_flatten, fun n s t hrx hr h => ?_⟩
  rw [stepN_of_waiting n hrx hr] at h
  cases h
  exact ⟨rfl, rfl, rfl, rfl, rfl, rfl⟩

end Sys2Proof.Machine
end

section
/-! PROOFS. The two messages at the Router: what their bytes decode to and the one write each issues (R92, R93). -/

namespace Sys2Proof.Machine

variable {s : State} {b0 b1 b2 : Byte}

-- What the bytes of a message decode to, at every count (R52, R53, R55)

/-- Three bytes of format N3 are REGWR of their packed fields. -/
theorem decode_noteOnShaped (c : Count) (h0 : noteonStatus b0 = true) (h1 : isStatus b1 = false)
    (h2 : isStatus b2 = false) : decode c [b0, b1, b2] = .ok (.regwr (packAddr b0 b1) (packVal b0 b2)) := by
  simp [decode, h0, h1, h2]

/-- Two bytes of format P2 are VOLSET of the level in the second. -/
theorem decode_programChangeShaped (c : Count) (h0 : pcStatus b0 = true) (h1 : isStatus b1 = false) :
    decode c [b0, b1] = .ok (.volset (volumeLevel b1)) := by
  simp [decode, h0, h1]

-- What a message does to a running block

/-- A message-level operation on a running block has its whole effect. -/
theorem messageOperation_run (f : State → State) (hh : s.halted = false) : messageOperation f s = .next (f s) := by
  simp [messageOperation_eq, hh]

/-- REGWR on a running block is the Router's register write (R92). -/
theorem exec_regwr_running (a : SynthAddr) (v : Byte) (hh : s.halted = false) :
    exec (.regwr a v) s = .next (regwr a v s) :=
  messageOperation_run (regwr a v) hh

/-- VOLSET on a running block is the Router's volume operation (R93). -/
theorem exec_volset_running (l : Level) (hh : s.halted = false) : exec (.volset l) s = .next (volset l s) :=
  messageOperation_run (volset l) hh

/-- Answered `success`, VOLSET is its codec write and nothing more (R94). -/
theorem volset_of_ok (l : Level) (ha : s.nextAnswer = .ok) :
    volset l s = (codecWrite 2 (0x100 ||| l.setWidth 9) s).2 := by
  rw [volset_eq, ha]

/-- Answered `failure`, VOLSET raises CodecWriteFailure after its codec write (R96, R110). -/
theorem volset_of_fail (l : Level) (ha : s.nextAnswer = .fail) :
    volset l s = raiseCodecWriteFailure (codecWrite 2 (0x100 ||| l.setWidth 9) s).2 := by
  rw [volset_eq, ha]
  rfl

-- The obligations

/-- Settles O12: the three ranges are the tests of format N3, and a register write is one SYNTH write. -/
theorem regwrIssuesOneSynthWrite : Obligations.RegwrIssuesOneSynthWrite := by
  constructor
  · intro c b0 b1 b2 hlo hhi h1 h2
    exact decode_noteOnShaped c ((noteonStatus_iff b0).mpr ⟨hlo, hhi⟩) ((isData_iff b1).mpr h1) ((isData_iff b2).mpr h2)
  · intro s a v hh
    rw [exec_regwr_running a v hh, regwr_eq]

/-- Settles O13: the message is of format P2, and the volume operation ends by its answer. -/
theorem volsetIssuesOneCodecWrite : Obligations.VolsetIssuesOneCodecWrite := by
  constructor
  · intro c b1 h1
    exact decode_programChangeShaped c ((pcStatus_iff 0xC0).mpr rfl) ((isData_iff b1).mpr h1)
  · intro s l hh t
    constructor
    · intro hok
      rw [exec_volset_running l hh, volset_of_ok l hok, codecWrite_eq]
    · intro hfail
      rw [exec_volset_running l hh, volset_of_fail l hfail, codecWrite_eq]
      rfl

end Sys2Proof.Machine
end

section
/-! PROOFS. The diagnostic events and the fatal condition (R105 to R107, R110). -/

namespace Sys2Proof.Machine

variable {s t : State} {b : Byte}

-- What goes out on DIAG

/-- The events a byte raises on a running block: a status byte inside a message drops what is buffered, a data byte
behind a full buffer is dropped itself, and no other byte raises any (R105). -/
theorem blockStep_raises_iff (hh : s.halted = false) (h : blockStep b s = .next t) (e : DiagEvent) :
    t.out = s.out ++ [.diag e] ↔
      (isStatus b = true ∧ s.count ≠ 0 ∧ e = .dropIncomplete s.buf0) ∨
      (isStatus b = false ∧ s.count = 3 ∧ e = .dropData b) := by
  obtain ⟨t', ht', hcases⟩ := blockStep_cases s b hh
  obtain rfl : t' = t := by rw [ht'] at h; cases h; rfl
  rcases hcases with ⟨hb, rfl⟩ | ⟨hb, hc, rfl⟩ | ⟨hb, hc, rfl⟩ | ⟨hb, hc, -, rfl⟩ | ⟨hb, hc, -, rfl⟩ |
    ⟨hb, hc, -, rfl⟩ | ⟨hb, hc, -, rfl⟩
  · -- a status byte, alone or dropping a message in progress
    by_cases h0 : s.count = 0#2
    · simp [hb, h0]
    · simp [hb, h0, eq_comm (b := e)]
  · simp [hb, hc, eq_comm (b := e)] -- an overflow byte
  · simp [hb, hc] -- an orphan byte
  · simp [hb, hc] -- a second byte that is stored
  · simp [hb, hc] -- the byte that completes a volume write
  · simp [hb, hc] -- a third byte that is stored
  · simp [hb, hc] -- the byte that completes a register write

/-- DROP_DATA is raised exactly by a data byte behind a full buffer, and carries that byte (R107). -/
theorem blockStep_raises_dropData_iff (hh : s.halted = false) (h : blockStep b s = .next t) (d : Byte) :
    t.out = s.out ++ [.diag (.dropData d)] ↔ isStatus b = false ∧ s.count = 3 ∧ d = b := by
  simp [blockStep_raises_iff hh h]

/-- DROP_INCOMPLETE is raised exactly by a status byte inside a message, and carries the old `buf[0]` (R106). -/
theorem blockStep_raises_dropIncomplete_iff (hh : s.halted = false) (h : blockStep b s = .next t) (p : Byte) :
    t.out = s.out ++ [.diag (.dropIncomplete p)] ↔ isStatus b = true ∧ s.count ≠ 0 ∧ p = s.buf0 := by
  simp [blockStep_raises_iff hh h]

/-- On a running block a status byte is STATUS (R71). -/
theorem blockStep_of_status (hh : s.halted = false) (hb : isStatus b = true) :
    blockStep b s = .next (statusByte b s) := by
  rw [blockStep_running s b hh, if_pos hb]

/-- Behind a full buffer a data byte on a running block is DATA.OVERFLOW (R76). -/
theorem blockStep_of_overflow (hh : s.halted = false) (hc : s.count = 3) (hb : isStatus b = false) :
    blockStep b s = .next (overflowByte b s) := by
  rw [blockStep_running s b hh, if_neg (by simp [hb]), if_pos hc]

/-- Behind a full buffer data bytes leave one event each and nothing else, so the buffer stays full (R76, R107). -/
theorem feed_of_full (ds : List Byte) (hh : s.halted = false) (hc : s.count = 3)
    (hds : ∀ d ∈ ds, isStatus d = false) :
    feed ds s = .next { s with out := s.out ++ ds.map (fun d => .diag (.dropData d)) } := by
  induction ds generalizing s with
  | nil => simp [feed]
  | cons d ds ih =>
    obtain ⟨hd, hrest⟩ := List.forall_mem_cons.mp hds
    calc feed (d :: ds) s
        = feed ds (overflowByte d s) := feed_cons s d ds (blockStep_of_overflow hh hc hd)
      _ = .next { overflowByte d s with
            out := (overflowByte d s).out ++ ds.map (fun d => .diag (.dropData d)) } := ih hh hc hrest
      _ = .next { s with out := s.out ++ (d :: ds).map (fun d => .diag (.dropData d)) } := by
        simp [overflowByte, State.diag, State.emit]

-- The obligations

/-- Settles O38: the event by its byte's case, and the run by induction over the bytes. -/
theorem dropDataExactlyWhileFull : Obligations.DropDataExactlyWhileFull := by
  constructor
  · intro s t b hh h
    simp [blockStep_raises_dropData_iff hh h, isData_iff]
  · intro ds s hh hc hds
    exact feed_of_full ds hh hc fun d hd => (isData_iff d).mpr (hds d hd)

/-- Settles O39: the event by its byte's case; the invariant makes `buf[0]` a status byte inside a message. -/
theorem dropIncompleteExactlyInsideMessage : Obligations.DropIncompleteExactlyInsideMessage := by
  intro s t b ⟨hstatus, _⟩ hh h
  constructor
  · simp [blockStep_raises_dropIncomplete_iff hh h, isStatus_iff]
  · intro p hp
    obtain ⟨hb, hc, rfl⟩ := (blockStep_raises_dropIncomplete_iff hh h p).mp hp
    rw [blockStep_of_status hh hb, statusByte_eq] at h
    cases h
    exact ⟨rfl, hstatus hc, rfl, rfl⟩

/-- Settles O16: a failed volume operation is its write and the fatal condition, and a halted block passes its
boundaries only. -/
theorem failedCodecWriteHaltsTheBlock : Obligations.FailedCodecWriteHaltsTheBlock := by
  constructor
  · intro s l hh hfail
    refine ⟨_, exec_volset_running l hh, ?_⟩
    rw [volset_of_fail l hfail]
    exact ⟨rfl, rfl, rfl, rfl, rfl, rfl⟩
  · intro s t hh hr h
    rw [step_of_no_byte hr (.inl hh)] at h
    cases h
    exact ⟨hh, rfl, rfl⟩

end Sys2Proof.Machine
end

section
/-! PROOFS. Reset (R125) and the codec initialisation program (R129, R130). -/

namespace Sys2Proof.Machine

variable {s : State} {es : List InitEntry} {r : CodecReg} {v : CodecVal}

-- Reset

/-- Settles O3: with RESET asserted the step is the reset, whatever the state. -/
theorem resetFromAnyState : Obligations.ResetFromAnyState := fun s hr =>
  ⟨applyReset s.passBoundary, step_of_resetAsserted hr, rfl, rfl, rfl⟩

-- A run of the initialisation program, entry by entry

/-- The writes of an initialisation program in their order, as the outputs they issue; a pause issues none (R129). -/
def initWrites : List InitEntry → List Output
  | [] => []
  | .pause :: es => initWrites es
  | .write r v :: es => .codecWrite r v :: initWrites es

/-- The state after the codec writes `ws`, each of which is output and consumes one answer (R22). -/
def State.issued (ws : List Output) (s : State) : State :=
  { s with
    answers := s.answers.drop ws.length
    answersTaken := s.answersTaken + ws.length
    out := s.out ++ ws }

/-- No writes leave the state as it is. -/
theorem State.issued_nil (s : State) : s.issued [] = s := by simp [State.issued]

/-- One write and then the writes `ws` are the writes `w :: ws`. -/
theorem State.issued_singleton_issued (s : State) (w : Output) (ws : List Output) :
    (s.issued [w]).issued ws = s.issued (w :: ws) := by
  simp [State.issued, Nat.add_comm ws.length, Nat.add_assoc]

/-- A codec write is issued whichever its answer is (R33). -/
theorem codecWrite_eq_issued (r : CodecReg) (v : CodecVal) (s : State) :
    codecWrite r v s = (s.nextAnswer, s.issued [.codecWrite r v]) := by
  simp [codecWrite_eq, State.issued]

/-- A write answered `success` is issued, and the run goes on behind it. -/
theorem runInit_write_of_ok (h : s.nextAnswer = .ok) :
    runInit (.write r v :: es) s = runInit es (s.issued [.codecWrite r v]) := by
  simp [runInit, codecWrite_eq_issued, h]

/-- A write answered `failure` is issued, and the run ends with it (R130). -/
theorem runInit_write_of_fail (h : s.nextAnswer = .fail) :
    runInit (.write r v :: es) s = (.fail, s.issued [.codecWrite r v]) := by
  simp [runInit, codecWrite_eq_issued, h]

/-- Of the answers given beforehand the first is the next answer, and the others are left behind one write. -/
theorem answers_of_take_succ {n : Nat} {a : CodecAnswer} {as : List CodecAnswer}
    (h : s.answers.take (n + 1) = a :: as) :
    s.nextAnswer = a ∧ ∀ w : Output, (s.issued [w]).answers.take n = as := by
  cases hs : s.answers with
  | nil => simp [hs] at h
  | cons b bs =>
    obtain ⟨rfl, rfl⟩ := List.cons.inj (hs ▸ h)
    simp [State.nextAnswer, State.issued, hs]

-- A run of the initialisation program, whole

/-- Where every write is answered `success`, every write is issued and the run ends in `ok`. -/
theorem runInit_of_all_ok (es : List InitEntry) (s : State)
    (h : s.answers.take (initWrites es).length = List.replicate (initWrites es).length .ok) :
    runInit es s = (.ok, s.issued (initWrites es)) := by
  induction es generalizing s with
  | nil => rw [initWrites, State.issued_nil, runInit]
  | cons e es ih =>
    cases e with
    | pause => exact ih s h
    | write r v =>
      obtain ⟨hok, hrest⟩ := answers_of_take_succ h
      rw [runInit_write_of_ok hok, ih _ (hrest _), State.issued_singleton_issued, initWrites]

/-- Where write number `k + 1` is the first answered `failure`, the run ends in `fail` right behind it: the writes up
to it are issued and none after (R130). -/
theorem runInit_of_first_fail (es : List InitEntry) (k : Nat) (s : State) (hk : k < (initWrites es).length)
    (h : s.answers.take (k + 1) = List.replicate k .ok ++ [.fail]) :
    runInit es s = (.fail, s.issued ((initWrites es).take (k + 1))) := by
  induction es generalizing k s with
  | nil => exact absurd hk (Nat.not_lt_zero k)
  | cons e es ih =>
    cases e with
    | pause => exact ih k s hk h
    | write r v =>
      cases k with
      | zero =>
        obtain ⟨hfail, -⟩ := answers_of_take_succ h
        exact runInit_write_of_fail hfail
      | succ k =>
        obtain ⟨hok, hrest⟩ := answers_of_take_succ h
        rw [runInit_write_of_ok hok, ih k _ (Nat.lt_of_succ_lt_succ hk) (hrest _), State.issued_singleton_issued,
          initWrites, List.take_succ_cons]

/-- Where initialisation fails, the system ends in the fault and no block starts (R130). -/
theorem systemBoot_of_fail {t : State} (h : runInit codecInitProgram s = (.fail, t)) :
    systemBoot s = .fault .codecInitFailed := by
  rw [systemBoot, h]

-- The obligations

/-- Settles O50: the run on the fixed program, which has ten writes, ends at its first failure. -/
theorem failedInitialisationNeverStarts : Obligations.FailedInitialisationNeverStarts := by
  intro k s hk h
  have hrun := runInit_of_first_fail codecInitProgram k s hk h
  exact ⟨by rw [hrun]; rfl, systemBoot_of_fail hrun⟩

/-- Settles O49: the program is the listed one by its definition, and all of its writes succeed, which are ten and
not eleven by C7 (log entry 12). -/
theorem initialisationIssuesTenWrites : Obligations.InitialisationIssuesTenWrites :=
  ⟨rfl, fun s h => runInit_of_all_ok codecInitProgram s h⟩

end Sys2Proof.Machine
end

section
/-! PROOFS. What one byte, one step and one operation can do, as relations whose cases are the rows of R84: each later
proof splits along these cases. -/

namespace Sys2Proof.Machine

variable {s t : State} {b : Byte} {i : Instr}

-- One byte

/-- What one byte does to a running block: the rows of R84, one case each. `byteEffect_iff` ties it to `blockStep`. -/
inductive ByteEffect (s : State) (b : Byte) : State → Prop where
  /-- A status byte, alone or dropping a message in progress (R71). -/
  | status (hb : isStatus b = true) : ByteEffect s b { s with
      buf0 := b, count := 1,
      out := if s.count = 0 then s.out else s.out ++ [.diag (.dropIncomplete s.buf0)] }
  /-- A data byte with no message in progress (R75). -/
  | orphan (hb : isStatus b = false) (hc : s.count = 0) : ByteEffect s b s
  /-- A data byte behind a full buffer (R76). -/
  | overflow (hb : isStatus b = false) (hc : s.count = 3) :
      ByteEffect s b { s with out := s.out ++ [.diag (.dropData b)] }
  /-- A second byte that completes nothing (R77, R80). -/
  | second (hb : isStatus b = false) (hc : s.count = 1) (hp : pcStatus s.buf0 = false) :
      ByteEffect s b { s with buf1 := b, count := 2 }
  /-- The second byte of a volume message; `halted` tells the codec's answer (R79, R93, R110). -/
  | volumeWrite (hb : isStatus b = false) (hc : s.count = 1) (hp : pcStatus s.buf0 = true) : ByteEffect s b { s with
      buf1 := b, count := 0, answers := s.answers.tail, answersTaken := s.answersTaken + 1,
      halted := decide (s.nextAnswer = .fail), out := s.out ++ [.codecWrite 2 (packVol b)] }
  /-- A third byte that completes nothing (R77, R80). -/
  | third (hb : isStatus b = false) (hc : s.count = 2) (hn : noteonStatus s.buf0 = false) :
      ByteEffect s b { s with buf2 := b, count := 3 }
  /-- The third byte of a register message (R78, R92). -/
  | registerWrite (hb : isStatus b = false) (hc : s.count = 2) (hn : noteonStatus s.buf0 = true) :
      ByteEffect s b { s with
        buf2 := b, count := 0, out := s.out ++ [.synthWrite (packAddr s.buf0 s.buf1) (packVal s.buf0 b)] }

/-- At count 0 a data byte on a running block is DATA.ORPHAN (R75). -/
theorem blockStep_of_orphan (hh : s.halted = false) (hc : s.count = 0) (hb : isStatus b = false) :
    blockStep b s = .next s := by
  rw [blockStep_running s b hh, if_neg (by simp [hb]), if_neg (by simp [hc]), if_pos hc]
  rfl

/-- At count 1 or 2 a data byte on a running block is DATA.APPEND (R77). -/
theorem blockStep_of_append (hh : s.halted = false) (hc : s.count = 1 ∨ s.count = 2) (hb : isStatus b = false) :
    blockStep b s = .next (appendByte b s) := by
  rw [blockStep_running s b hh, if_neg (by simp [hb]), if_neg, if_neg] <;>
  · rcases hc with hc | hc <;> simp [hc]

/-- Each case of `ByteEffect` is what the block does. -/
theorem ByteEffect.blockStep_eq (h : ByteEffect s b t) (hh : s.halted = false) : blockStep b s = .next t := by
  cases h with
  | status hb => rw [blockStep_of_status hh hb, statusByte_eq]
  | orphan hb hc => exact blockStep_of_orphan hh hc hb
  | overflow hb hc => exact blockStep_of_overflow hh hc hb
  | second hb hc hp => rw [blockStep_of_append hh (.inl hc) hb, appendByte_one s b hc, if_neg (by simp [hp])]
  | volumeWrite hb hc hp =>
    rw [blockStep_of_append hh (.inl hc) hb, appendByte_completes_volume hh hc ((pcStatus_iff s.buf0).mp hp)]
  | third hb hc hn => rw [blockStep_of_append hh (.inr hc) hb, appendByte_two s b hc, if_neg (by simp [hn])]
  | registerWrite hb hc hn => rw [blockStep_of_append hh (.inr hc) hb, appendByte_two s b hc, if_pos hn]

/-- The cases of `ByteEffect` are all that the block can do. -/
theorem byteEffect_of_blockStep (hh : s.halted = false) (h : blockStep b s = .next t) : ByteEffect s b t := by
  obtain ⟨t', ht', hcases⟩ := blockStep_cases s b hh
  obtain rfl : t' = t := by rw [ht'] at h; cases h; rfl
  rcases hcases with ⟨hb, rfl⟩ | ⟨hb, hc, rfl⟩ | ⟨hb, hc, rfl⟩ | ⟨hb, hc, hp, rfl⟩ | ⟨hb, hc, hp, rfl⟩ |
    ⟨hb, hc, hn, rfl⟩ | ⟨hb, hc, hn, rfl⟩
  · exact .status hb
  · exact .overflow hb hc
  · exact .orphan hb hc
  · exact .second hb hc hp
  · exact .volumeWrite hb hc hp
  · exact .third hb hc hn
  · exact .registerWrite hb hc hn

theorem byteEffect_iff (hh : s.halted = false) : ByteEffect s b t ↔ blockStep b s = .next t :=
  ⟨fun h => h.blockStep_eq hh, byteEffect_of_blockStep hh⟩

/-- A byte leaves the input as it is (R41). -/
theorem ByteEffect.input_eq (h : ByteEffect s b t) : t.rx = s.rx ∧ t.resetIn = s.resetIn := by
  cases h <;> exact ⟨rfl, rfl⟩

/-- A byte adds at most one output, after all earlier ones (R87). -/
theorem ByteEffect.out_cases (h : ByteEffect s b t) : t.out = s.out ∨ ∃ o, t.out = s.out ++ [o] := by
  cases h with
  | status =>
    by_cases h0 : s.count = 0
    · exact .inl (if_pos h0)
    · exact .inr ⟨_, if_neg h0⟩
  | orphan | second | third => exact .inl rfl
  | overflow | volumeWrite | registerWrite => exact .inr ⟨_, rfl⟩

-- One step

/-- What a step does: a reset, a wait, or one byte. `stepEffect_iff` ties it to `step`. -/
inductive StepEffect (s : State) : State → Prop where
  /-- RESET is asserted at the boundary (R24, R125). -/
  | reset (hr : s.resetAsserted = true) : StepEffect s (applyReset s.passBoundary)
  /-- No byte is taken (R13, R121; log entry 5). -/
  | wait (hr : s.resetAsserted = false) (hno : s.halted = true ∨ s.rx = []) : StepEffect s s.passBoundary
  /-- The next byte is taken and run (R20, R101). -/
  | byte {b : Byte} {rest : List Byte} {t : State} (hr : s.resetAsserted = false) (hh : s.halted = false)
      (hx : s.rx = b :: rest) (h : ByteEffect { s with rx := rest, resetIn := s.resetIn.tail } b t) : StepEffect s t

theorem StepEffect.step_eq (h : StepEffect s t) : step s = .next t := by
  cases h with
  | reset hr => exact step_of_resetAsserted hr
  | wait hr hno => exact step_of_no_byte hr hno
  | byte hr hh hx h => exact (step_of_byte hr hh hx).trans (h.blockStep_eq hh)

theorem stepEffect_of_step (h : step s = .next t) : StepEffect s t := by
  rcases step_cases s with ⟨hr, hs⟩ | ⟨hr, hno, hs⟩ | ⟨b, rest, hr, hh, hx, hs⟩ <;> rw [hs] at h
  · cases h; exact .reset hr
  · cases h; exact .wait hr hno
  · exact .byte hr hh hx (byteEffect_of_blockStep hh h)

theorem stepEffect_iff : StepEffect s t ↔ step s = .next t := ⟨StepEffect.step_eq, stepEffect_of_step⟩

-- A run of bytes

/-- A run of one byte more goes through the state that the first byte leads to. -/
theorem feed_cons_eq_next_iff {bs : List Byte} :
    feed (b :: bs) s = .next t ↔ ∃ u, blockStep b s = .next u ∧ feed bs u = .next t := by
  obtain ⟨u, hu, -⟩ := exists_blockStep_next b s
  simp [feed_cons s b bs hu, hu]

end Sys2Proof.Machine
end

section
/-! PROOFS. Decoder and encoder are each other's inverse (R51 to R53, R64, R65). -/

namespace Sys2Proof.Machine

variable {s t : State} {b b0 b1 b2 : Byte} {i : Instr} {c : Count}

-- The operations by what their bytes are

/-- The kinds of operation: the three of a data byte, the eleven of a status byte taken together, and the two
messages (R63, R65). -/
inductive InstrKind : Instr → Prop where
  | orphan (b : Byte) : InstrKind (.dataOrphan b)
  | append (b : Byte) : InstrKind (.dataAppend b)
  | overflow (b : Byte) : InstrKind (.dataOverflow b)
  | status {b : Byte} {i : Instr} (hf : IsStatusForm b i) : InstrKind i
  | regwr (a : SynthAddr) (v : Byte) : InstrKind (.regwr a v)
  | volset (l : Level) : InstrKind (.volset l)

/-- Every operation is of one of these kinds. -/
theorem instrKind (i : Instr) : InstrKind i := by
  cases i with
  | dataOrphan b => exact .orphan b
  | dataAppend b => exact .append b
  | dataOverflow b => exact .overflow b
  | regwr a v => exact .regwr a v
  | volset l => exact .volset l
  | _ b => exact .status (b := b) (by simp [IsStatusForm])

/-- A status byte's operation is encoded by the byte itself (R64). -/
theorem encode_of_form (hf : IsStatusForm b i) : encode i = [b] := by
  rcases hf with h | h | h | h | h | h | h | h | h | h | h <;> subst h <;> rfl

/-- The eleven forms of a status byte as a list. -/
def statusForms (b : Byte) : List Instr :=
  [.stNoteon b, .stPc b, .stOther1 b, .stOther2 b, .stOther3 b, .stOther4 b, .stOther5 b, .stOther6 b, .stOther7 b,
    .stOther8 b, .stOther9 b]

theorem mem_statusForms_iff : i ∈ statusForms b ↔ IsStatusForm b i := by simp [statusForms, IsStatusForm]

/-- The rows of the status bytes are disjoint: the byte's row is the one the decoder names (R51). -/
theorem decodeStatus_of_form (hf : IsStatusForm b i) (hw : i.wellFormed = true) : decodeStatus b = i := by
  have key := forall_byte (p := fun b => (statusForms b).all fun i => !i.wellFormed || decodeStatus b == i)
    (by decide +kernel) b
  simpa [hw] using List.all_eq_true.mp key i (mem_statusForms_iff.mpr hf)

/-- A byte in the row of the data bytes is a data byte (R50). -/
theorem isData_of_row (hw : (b &&& 0x80 == 0x00) = true) : isStatus b = false := by
  rw [dataWellFormed_iff] at hw
  simpa using hw

-- One byte: decoding and encoding

/-- The operation that the decoder gives for a byte is encoded by that byte. -/
theorem encode_decodeByte (c : Count) (b : Byte) : encode (decodeByte c b) = [b] := by
  cases hb : isStatus b with
  | true =>
    rw [decodeByte_status hb]
    exact encode_of_form (decodeStatus_form b)
  | false =>
    rw [decodeByte_data hb]
    split
    · rfl
    · split <;> rfl

/-- A well-formed, selected operation that is encoded by one byte is the one the decoder gives for it. -/
theorem decodeByte_of_encode (he : encode i = [b]) (hw : i.wellFormed = true) (hs : i.selectedAt c = true) :
    decodeByte c b = i := by
  cases instrKind i with
  | orphan d =>
    cases he
    have hc : c = 0 := by simpa [Instr.selectedAt] using hs
    simp [decodeByte_data (isData_of_row hw), hc]
  | append d =>
    cases he
    have hc : c = 1 ∨ c = 2 := by simpa [Instr.selectedAt] using hs
    rcases hc with hc | hc <;> simp [decodeByte_data (isData_of_row hw), hc]
  | overflow d =>
    cases he
    have hc : c = 3 := by simpa [Instr.selectedAt] using hs
    simp [decodeByte_data (isData_of_row hw), hc]
  | status hf =>
    cases (encode_of_form hf).symm.trans he
    rw [decodeByte_status (isStatus_of_form hf hw), decodeStatus_of_form hf hw]
  | regwr a v => simp [encode, regwrBytes] at he
  | volset l => simp [encode, volsetBytes] at he

-- The bytes of REGWR (R64)

/-- The status byte of `REGWR a, v` (R64). -/
def regwrStatus (a : SynthAddr) (v : Byte) : Byte :=
  0x90 ||| ((a >>> 7).setWidth 8 &&& 0x03) ||| (((v >>> 7) &&& 0x01) <<< 2)

/-- The first data byte of `REGWR a, v` (R64). -/
def regwrData (a : SynthAddr) : Byte := a.setWidth 8 &&& dataMask

/-- The data byte of `VOLSET l` (R64). -/
def volsetData (l : Level) : Byte := l.setWidth 8 &&& dataMask

theorem encode_regwr (a : SynthAddr) (v : Byte) :
    encode (.regwr a v) = [regwrStatus a v, regwrData a, v &&& dataMask] := rfl

theorem encode_volset (l : Level) : encode (.volset l) = [0xC0, volsetData l] := rfl

/-- A masked byte is a data byte (R50, P9). -/
theorem isStatus_and_dataMask (b : Byte) : isStatus (b &&& dataMask) = false :=
  and_dataMask_getLsbD_of_ge b le_rfl

theorem isStatus_regwrData (a : SynthAddr) : isStatus (regwrData a) = false := isStatus_and_dataMask _

theorem isStatus_volsetData (l : Level) : isStatus (volsetData l) = false := isStatus_and_dataMask _

/-- The status byte of REGWR bit by bit: `10010` and then `v7 a8 a7`. -/
theorem regwrStatus_getLsbD (a : SynthAddr) (v : Byte) {j : Nat} (hj : j < 8) :
    (regwrStatus a v).getLsbD j =
      if j < 2 then a.getLsbD (j + 7) else if j = 2 then v.getLsbD 7 else (0x90 : Byte).getLsbD j := by
  interval_cases j <;> simp [regwrStatus]

/-- The bits that the Note-On test fixes (R52, P1, P2). -/
theorem getLsbD_of_noteonStatus (hn : noteonStatus b = true) {j : Nat} (hlo : 3 ≤ j) (hhi : j < 8) :
    b.getLsbD j = (0x90 : Byte).getLsbD j := by
  have hmask : b &&& 0xF8 = 0x90 := eq_of_beq hn
  have hbit := congrArg (·.getLsbD j) hmask
  interval_cases j <;> simpa using hbit

theorem noteonStatus_regwrStatus (a : SynthAddr) (v : Byte) : noteonStatus (regwrStatus a v) = true := by
  apply beq_iff_eq.mpr
  apply BitVec.eq_of_getLsbD_eq
  intro j hj
  rw [BitVec.getLsbD_and, regwrStatus_getLsbD a v hj]
  interval_cases j <;> simp [noteOnMask, noteOnMatch]

/-- The data byte of an address carries its bits 6 to 0. -/
theorem regwrData_getLsbD_of_lt (a : SynthAddr) {j : Nat} (hj : j < 7) :
    (regwrData a).getLsbD j = a.getLsbD j := by
  have hw : j < 8 := by omega
  rw [regwrData, and_dataMask_getLsbD_of_lt _ hj]
  simp [hw]

/-- Packing the bytes of `REGWR a, v` gives its address back (R56, R64). -/
theorem packAddr_regwr (a : SynthAddr) (v : Byte) : packAddr (regwrStatus a v) (regwrData a) = a := by
  apply BitVec.eq_of_getLsbD_eq
  intro j hj
  by_cases h7 : j < 7
  · rw [packAddr_getLsbD_of_lt _ _ h7, regwrData_getLsbD_of_lt a h7]
  · obtain ⟨k, rfl⟩ := Nat.exists_eq_add_of_le' (Nat.le_of_not_lt h7)
    have hk : k < 2 := by omega
    rw [packAddr_getLsbD_add_seven _ _ hk, regwrStatus_getLsbD a v (by omega), if_pos hk]

/-- Packing the bytes of `REGWR a, v` gives its value back (R57, R64). -/
theorem packVal_regwr (a : SynthAddr) (v : Byte) : packVal (regwrStatus a v) (v &&& dataMask) = v := by
  apply BitVec.eq_of_getLsbD_eq
  intro j hj
  by_cases h7 : j < 7
  · rw [packVal_getLsbD_of_lt _ _ h7, and_dataMask_getLsbD_of_lt v h7]
  · obtain rfl : j = 7 := by omega
    rw [packVal_getLsbD_seven, regwrStatus_getLsbD a v (by decide)]
    rfl

/-- The status byte of a register message is that of the operation it packs to (R52, R64). -/
theorem regwrStatus_pack (b1 b2 : Byte) (hn : noteonStatus b0 = true) :
    regwrStatus (packAddr b0 b1) (packVal b0 b2) = b0 := by
  apply BitVec.eq_of_getLsbD_eq
  intro j hj
  rw [regwrStatus_getLsbD _ _ hj]
  split
  · rename_i h2
    exact packAddr_getLsbD_add_seven b0 b1 h2
  · split
    · rename_i h2
      rw [packVal_getLsbD_seven, h2]
    · exact (getLsbD_of_noteonStatus hn (by omega) hj).symm

/-- Two data bytes are equal where their bits 6 to 0 are. -/
theorem eq_of_isData_of_getLsbD {d e : Byte} (hd : isStatus d = false) (he : isStatus e = false)
    (h : ∀ j < 7, d.getLsbD j = e.getLsbD j) : d = e := by
  apply BitVec.eq_of_getLsbD_eq
  intro j hj
  by_cases h7 : j < 7
  · exact h j h7
  · obtain rfl : j = 7 := by omega
    exact hd.trans he.symm

/-- The data mask keeps a data byte (R59). -/
theorem and_dataMask_of_data (hb : isStatus b = false) : b &&& dataMask = b :=
  eq_of_isData_of_getLsbD (isStatus_and_dataMask b) hb fun _ hj => and_dataMask_getLsbD_of_lt b hj

theorem regwrData_packAddr (b0 : Byte) (hb : isStatus b1 = false) : regwrData (packAddr b0 b1) = b1 :=
  eq_of_isData_of_getLsbD (isStatus_regwrData _) hb fun j hj => by
    rw [regwrData_getLsbD_of_lt _ hj, packAddr_getLsbD_of_lt _ _ hj]

theorem packVal_and_dataMask (b0 : Byte) (hb : isStatus b2 = false) : packVal b0 b2 &&& dataMask = b2 :=
  eq_of_isData_of_getLsbD (isStatus_and_dataMask _) hb fun j hj => by
    rw [and_dataMask_getLsbD_of_lt _ hj, packVal_getLsbD_of_lt _ _ hj]

/-- The bytes of a register message are those of the operation it packs to (R35, R64). -/
theorem encode_regwr_pack (hn : noteonStatus b0 = true) (h1 : isStatus b1 = false) (h2 : isStatus b2 = false) :
    encode (.regwr (packAddr b0 b1) (packVal b0 b2)) = [b0, b1, b2] := by
  rw [encode_regwr, regwrStatus_pack b1 b2 hn, regwrData_packAddr b0 h1, packVal_and_dataMask b0 h2]

-- The bytes of VOLSET (R64)

/-- The level is the low seven bits of its byte (R58). -/
theorem volumeLevel_getLsbD_of_lt (b : Byte) {j : Nat} (hj : j < 7) : (volumeLevel b).getLsbD j = b.getLsbD j := by
  rw [volumeLevel, BitVec.getLsbD_setWidth, and_dataMask_getLsbD_of_lt b hj]
  simp [hj]

/-- The data byte of a level carries its seven bits. -/
theorem volsetData_getLsbD_of_lt (l : Level) {j : Nat} (hj : j < 7) : (volsetData l).getLsbD j = l.getLsbD j := by
  have hw : j < 8 := by omega
  rw [volsetData, and_dataMask_getLsbD_of_lt _ hj]
  simp [hw]

theorem volumeLevel_volsetData (l : Level) : volumeLevel (volsetData l) = l :=
  BitVec.eq_of_getLsbD_eq fun j hj => by
    rw [volumeLevel_getLsbD_of_lt _ hj, volsetData_getLsbD_of_lt l hj]

theorem volsetData_volumeLevel (hb : isStatus b = false) : volsetData (volumeLevel b) = b :=
  eq_of_isData_of_getLsbD (isStatus_volsetData _) hb fun j hj => by
    rw [volsetData_getLsbD_of_lt _ hj, volumeLevel_getLsbD_of_lt b hj]

-- The obligations

/-- Settles O41: one byte by the rows of the opcode table, a message by packing the bytes of its operands. -/
theorem decodingInvertsEncoding : Obligations.DecodingInvertsEncoding := by
  intro i c hw hs
  have one_byte {b : Byte} (he : encode i = [b]) : decode c (encode i) = .ok i := by
    rw [he, decode, decodeByte_of_encode he hw hs]
  cases instrKind i with
  | orphan | append | overflow => exact one_byte rfl
  | status hf => exact one_byte (encode_of_form hf)
  | regwr a v =>
    rw [encode_regwr, decode_noteOnShaped c (noteonStatus_regwrStatus a v) (isStatus_regwrData a)
      (isStatus_and_dataMask v), packAddr_regwr, packVal_regwr]
  | volset l =>
    rw [encode_volset, decode_programChangeShaped c ((pcStatus_iff 0xC0).mpr rfl) (isStatus_volsetData l),
      volumeLevel_volsetData]

/-- What the decoder accepts: one byte, or the bytes of a message in its format (R52, R53, R70). -/
theorem decode_ok_cases {bs : List Byte} (h : decode c bs = .ok i) :
    (∃ b, bs = [b] ∧ i = decodeByte c b) ∨
    (∃ b1, bs = [0xC0, b1] ∧ isStatus b1 = false ∧ i = .volset (volumeLevel b1)) ∨
    (∃ b0 b1 b2, bs = [b0, b1, b2] ∧ noteonStatus b0 = true ∧ isStatus b1 = false ∧ isStatus b2 = false ∧
      i = .regwr (packAddr b0 b1) (packVal b0 b2)) := by
  match bs with
  | [] => cases h
  | [b] =>
    cases h
    exact .inl ⟨b, rfl, rfl⟩
  | [b0, b1] =>
    cases hp : pcStatus b0 with
    | false => simp [decode, hp] at h
    | true =>
      cases h1 : isStatus b1 with
      | true => simp [decode, hp, h1] at h
      | false =>
        obtain rfl := (pcStatus_iff b0).mp hp
        rw [decode_programChangeShaped c hp h1] at h
        cases h
        exact .inr (.inl ⟨b1, rfl, h1, rfl⟩)
  | [b0, b1, b2] =>
    cases hn : noteonStatus b0 with
    | false => simp [decode, hn] at h
    | true =>
      cases hd : isStatus b1 || isStatus b2 with
      | true => simp [decode, hn, hd] at h
      | false =>
        obtain ⟨h1, h2⟩ := Bool.or_eq_false_iff.mp hd
        rw [decode_noteOnShaped c hn h1 h2] at h
        cases h
        exact .inr (.inr ⟨b0, b1, b2, rfl, hn, h1, h2, rfl⟩)
  | _ :: _ :: _ :: _ :: _ => cases h

/-- Settles O42: whatever is accepted is one of the three formats, and each of them is encoded by its own bytes. -/
theorem encodingInvertsDecoding : Obligations.EncodingInvertsDecoding := by
  intro c bs i h
  rcases decode_ok_cases h with ⟨b, rfl, rfl⟩ | ⟨b1, rfl, h1, rfl⟩ | ⟨b0, b1, b2, rfl, hn, h1, h2, rfl⟩
  · exact ⟨decodeByte_wellFormed c b, decodeByte_selectedAt c b, encode_decodeByte c b⟩
  · exact ⟨rfl, rfl, by rw [encode_volset, volsetData_volumeLevel h1]⟩
  · exact ⟨rfl, rfl, encode_regwr_pack hn h1 h2⟩

end Sys2Proof.Machine
end

section
/-! PROOFS. The invariant of the reachable states and the transition table (R12, R26, R27, R84, R88). -/

namespace Sys2Proof.Machine

variable {s t : State} {b : Byte}

-- The invariant

/-- With no message in progress the invariant asks for nothing. -/
theorem State.inv_of_count_zero (hc : s.count = 0) : s.Inv := by simp [State.Inv, hc]

/-- With only a status byte buffered, on a running block, the invariant asks for that status byte alone. -/
theorem State.inv_of_count_one (hc : s.count = 1) (hh : s.halted = false) (h0 : isStatus s.buf0 = true) : s.Inv := by
  simp [State.Inv, hc, hh, h0]

/-- With two bytes buffered the invariant asks for a status byte other than 0xC0 and a data byte. -/
theorem State.inv_of_count_two (hc : s.count = 2) (hh : s.halted = false) (h0 : isStatus s.buf0 = true)
    (h1 : isStatus s.buf1 = false) (hp : pcStatus s.buf0 = false) : s.Inv := by
  simp [State.Inv, hc, hh, h0, h1, hp]

/-- With three bytes buffered the invariant asks for an unrecognised status byte and two data bytes. -/
theorem State.inv_of_count_three (hc : s.count = 3) (hh : s.halted = false) (h0 : isStatus s.buf0 = true)
    (h1 : isStatus s.buf1 = false) (h2 : isStatus s.buf2 = false) (hn : noteonStatus s.buf0 = false)
    (hp : pcStatus s.buf0 = false) : s.Inv := by
  simp [State.Inv, hc, hh, h0, h1, h2, hn, hp]

/-- One byte keeps the invariant: a stored byte is a data byte, and it is stored only where it completes nothing. -/
theorem ByteEffect.keeps_inv (h : ByteEffect s b t) (hi : s.Inv) (hh : s.halted = false) : t.Inv := by
  obtain ⟨hstatus, hdata1, -, -, hpc, -⟩ := id hi
  cases h with
  | status hb => exact State.inv_of_count_one rfl hh hb
  | orphan hb hc => exact hi
  | overflow hb hc => exact hi
  | second hb hc hp => exact State.inv_of_count_two rfl hh (hstatus (by simp [hc])) hb hp
  | volumeWrite hb hc hp => exact State.inv_of_count_zero rfl
  | third hb hc hn =>
    exact State.inv_of_count_three rfl hh (hstatus (by simp [hc])) (hdata1 (.inl hc)) hb hn (hpc (.inl hc))
  | registerWrite hb hc hn => exact State.inv_of_count_zero rfl

/-- Settles O2: right after reset no message is in progress. -/
theorem resetMeetsInvariant : Obligations.ResetMeetsInvariant := State.inv_of_count_zero State.reset_count

/-- Settles O24: a reset ends with count 0, a wait changes nothing the invariant speaks of, and one byte keeps it. -/
theorem stepKeepsInvariant : Obligations.StepKeepsInvariant := by
  intro s t hi h
  cases stepEffect_of_step h with
  | reset hr => exact State.inv_of_count_zero rfl
  | wait hr hno => exact hi
  | byte hr hh hx h => exact h.keeps_inv hi hh

-- The sum-type state (R27)

theorem State.phase_of_halted (hh : s.halted = true) : s.phase = .halted := by simp [State.phase, hh]

theorem State.phase_of_count_zero (hh : s.halted = false) (hc : s.count = 0) : s.phase = .idle := by
  simp [State.phase, hh, hc]

theorem State.phase_of_count_one (hh : s.halted = false) (hc : s.count = 1) : s.phase = .have1 s.buf0 := by
  simp [State.phase, hh, hc]

theorem State.phase_of_count_two (hh : s.halted = false) (hc : s.count = 2) : s.phase = .have2 s.buf0 s.buf1 := by
  simp [State.phase, hh, hc]

theorem State.phase_of_count_three (hh : s.halted = false) (hc : s.count = 3) :
    s.phase = .have3 s.buf0 s.buf1 s.buf2 := by
  simp [State.phase, hh, hc]

-- The kinds of status byte (R84) by the completion tests (R78, R79)

theorem statusKind_of_noteon (hn : noteonStatus b = true) : statusKind b = .n :=
  if_pos ((noteonStatus_iff b).mp hn)

theorem statusKind_of_pc (hp : pcStatus b = true) : statusKind b = .p := by
  rw [(pcStatus_iff b).mp hp]
  rfl

theorem statusKind_of_neither (hn : noteonStatus b = false) (hp : pcStatus b = false) : statusKind b = .o := by
  have hrange : ¬(0x90 ≤ b.toNat ∧ b.toNat ≤ 0x97) := by simp [← noteonStatus_iff, hn]
  have hne : b.toNat ≠ 0xC0 := fun h => by
    have hb : b = 0xC0 := BitVec.eq_of_toNat_eq h
    simp [(pcStatus_iff b).mpr hb] at hp
  rw [statusKind, if_neg hrange, if_neg hne]

/-- The codec value of a data byte is the flag and the byte itself (R58). -/
theorem packVol_of_data (hb : isStatus b = false) : packVol b = 0x100 ||| b.setWidth 9 := by
  rw [packVol, volumeValue, volumeLevel_setWidth, and_dataMask_of_data hb]
  rfl

/-- The column of the table is the kind of the byte (R84). -/
theorem decide_le_toNat (b : Byte) : decide (0x80 ≤ b.toNat) = isStatus b := by
  rw [Bool.eq_iff_iff, decide_eq_true_iff, isStatus_iff]

/-- The rows of the table for a status byte: it starts a new message, and drops the one in progress (R71, R84). -/
theorem tableRow_status (hb : isStatus b = true) (hh : s.halted = false) (a : CodecAnswer) :
    tableRow s.phase b a =
      some (.have1 b, if s.count = 0 then none else some (.diag (.dropIncomplete s.buf0))) := by
  rcases count_cases s.count with hc | hc | hc | hc
  · simp [State.phase_of_count_zero hh hc, tableRow, decide_le_toNat, hb, hc]
  · simp [State.phase_of_count_one hh hc, tableRow, decide_le_toNat, hb, hc]
  · simp [State.phase_of_count_two hh hc, tableRow, decide_le_toNat, hb, hc]
  · simp [State.phase_of_count_three hh hc, tableRow, decide_le_toNat, hb, hc]

/-- The table has a row for what one byte does, and the row says the same (R84, R88). -/
theorem ByteEffect.tableRow_eq (h : ByteEffect s b t) (hi : s.Inv) (hh : s.halted = false) :
    ∃ o, tableRow s.phase b s.nextAnswer = some (t.phase, o) ∧ t.out = s.out ++ o.toList := by
  obtain ⟨-, -, -, hnoteon, hpc, -⟩ := hi
  cases h with
  | status hb =>
    rw [tableRow_status hb hh]
    refine ⟨if s.count = 0 then none else some (.diag (.dropIncomplete s.buf0)), ?_, ?_⟩
    · simp [State.phase_of_count_one, hh]
    · by_cases h0 : s.count = 0
      · simp [h0]
      · rw [if_neg h0, if_neg h0]
        rfl
  | orphan hb hc =>
    refine ⟨none, ?_, by simp⟩
    simp [State.phase_of_count_zero, tableRow, decide_le_toNat, hh, hc, hb]
  | overflow hb hc =>
    have hkind := statusKind_of_neither (hnoteon hc) (hpc (.inr hc))
    refine ⟨some (.diag (.dropData b)), ?_, rfl⟩
    simp [State.phase_of_count_three, tableRow, decide_le_toNat, hh, hc, hb, hkind]
  | second hb hc hp =>
    refine ⟨none, ?_, by simp⟩
    rw [State.phase_of_count_one hh hc]
    cases hn : noteonStatus s.buf0 with
    | true => simp [State.phase_of_count_two, tableRow, decide_le_toNat, hh, hb, statusKind_of_noteon hn]
    | false => simp [State.phase_of_count_two, tableRow, decide_le_toNat, hh, hb, statusKind_of_neither hn hp]
  | volumeWrite hb hc hp =>
    rw [packVol_of_data hb, State.phase_of_count_one hh hc]
    refine ⟨some (.codecWrite 2 (0x100 ||| b.setWidth 9)), ?_, rfl⟩
    cases ha : s.nextAnswer with
    | ok => simp [State.phase_of_count_zero, tableRow, decide_le_toNat, hb, statusKind_of_pc hp]
    | fail => simp [State.phase_of_halted, tableRow, decide_le_toNat, hb, statusKind_of_pc hp]
  | third hb hc hn =>
    have hkind := statusKind_of_neither hn (hpc (.inl hc))
    refine ⟨none, ?_, by simp⟩
    rw [State.phase_of_count_two hh hc]
    simp [State.phase_of_count_three, tableRow, decide_le_toNat, hh, hb, hkind]
  | registerWrite hb hc hn =>
    refine ⟨some (.synthWrite (packAddr s.buf0 s.buf1) (packVal s.buf0 b)), ?_, rfl⟩
    rw [State.phase_of_count_two hh hc]
    simp [State.phase_of_count_zero, tableRow, decide_le_toNat, hh, hb, statusKind_of_noteon hn]

/-- Settles O27: the step is one byte on the state without that byte, which has the same sum-type state. -/
theorem stepRefinesTransitionTable : Obligations.StepRefinesTransitionTable := by
  intro s b rest hi hr hh hx
  obtain ⟨t, ht, hrx⟩ := exists_blockStep_next b { s with rx := rest, resetIn := s.resetIn.tail }
  have heffect := (byteEffect_iff (s := { s with rx := rest, resetIn := s.resetIn.tail }) hh).mpr ht
  obtain ⟨o, hrow, hout⟩ := heffect.tableRow_eq hi hh
  exact ⟨t.phase, o, t, hrow, (step_of_byte hr hh hx).trans ht, rfl, hout, hrx, heffect.keeps_inv hi hh⟩

-- The running states of the invariant are reached (R26)

/-- The state after reset with a message in progress. -/
def State.holding (c : Count) (b0 b1 b2 : Byte) : State :=
  { State.reset with count := c, buf0 := b0, buf1 := b1, buf2 := b2 }

variable {b0 b1 : Byte}

theorem blockStep_reset_of_status (hb : isStatus b = true) :
    blockStep b State.reset = .next (.holding 1 b 0 0) :=
  (ByteEffect.status hb).blockStep_eq rfl

theorem blockStep_holding_one (hb : isStatus b = false) (hp : pcStatus b0 = false) :
    blockStep b (.holding 1 b0 0 0) = .next (.holding 2 b0 b 0) :=
  (ByteEffect.second hb rfl hp).blockStep_eq rfl

theorem blockStep_holding_two (hb : isStatus b = false) (hn : noteonStatus b0 = false) :
    blockStep b (.holding 2 b0 b1 0) = .next (.holding 3 b0 b1 b) :=
  (ByteEffect.third hb rfl hn).blockStep_eq rfl

/-- Settles O28: the valid bytes of the buffer, fed to the block right after reset, come to stand there again. -/
theorem everyRunningStateIsReachedUpToStaleBytes : Obligations.EveryRunningStateIsReachedUpToStaleBytes := by
  rintro s ⟨hstatus, hdata1, hdata2, hnoteon, hpc, -⟩ hh
  rcases count_cases s.count with hc | hc | hc | hc
  · exact ⟨[], State.reset, rfl, (State.phase_of_count_zero hh hc).symm⟩
  · refine ⟨[s.buf0], .holding 1 s.buf0 0 0, ?_, (State.phase_of_count_one hh hc).symm⟩
    rw [feed_cons _ _ _ (blockStep_reset_of_status (hstatus (by simp [hc])))]
    rfl
  · refine ⟨[s.buf0, s.buf1], .holding 2 s.buf0 s.buf1 0, ?_, (State.phase_of_count_two hh hc).symm⟩
    rw [feed_cons _ _ _ (blockStep_reset_of_status (hstatus (by simp [hc]))),
      feed_cons _ _ _ (blockStep_holding_one (hdata1 (.inl hc)) (hpc (.inl hc)))]
    rfl
  · refine ⟨[s.buf0, s.buf1, s.buf2], .holding 3 s.buf0 s.buf1 s.buf2, ?_, (State.phase_of_count_three hh hc).symm⟩
    rw [feed_cons _ _ _ (blockStep_reset_of_status (hstatus (by simp [hc]))),
      feed_cons _ _ _ (blockStep_holding_one (hdata1 (.inr hc)) (hpc (.inr hc))),
      feed_cons _ _ _ (blockStep_holding_two (hdata2 hc) (hnoteon hc))]
    rfl

end Sys2Proof.Machine
end

section
/-! PROOFS. What one step reads and what it adds: stale bytes, the codec's answers, the outputs, reset and waiting
(R6, R10, R13, R35, R39, R87, R88, R121, R125). -/

namespace Sys2Proof.Machine

variable {s t : State} {b : Byte}

-- Stale buffer bytes (R10)

/-- States that differ at most in stale bytes expect the same answer. -/
theorem SameButStale.nextAnswer_eq (h : SameButStale s t) : s.nextAnswer = t.nextAnswer := by
  simp [State.nextAnswer, h.answers, h.answersTaken]

theorem SameButStale.resetAsserted_eq (h : SameButStale s t) : s.resetAsserted = t.resetAsserted := by
  simp [State.resetAsserted, h.resetIn]

/-- A boundary passed keeps two states alike up to stale bytes. -/
theorem SameButStale.passBoundary (h : SameButStale s t) : SameButStale s.passBoundary t.passBoundary :=
  { h with resetIn := congrArg List.tail h.resetIn }

/-- A byte taken keeps two states alike up to stale bytes. -/
theorem SameButStale.takeFrom (h : SameButStale s t) (rest : List Byte) :
    SameButStale { s with rx := rest, resetIn := s.resetIn.tail } { t with rx := rest, resetIn := t.resetIn.tail } :=
  { h with rx := rfl, resetIn := congrArg List.tail h.resetIn }

/-- One byte does the same to two states that differ at most in stale bytes: each case reads only what they share. -/
theorem ByteEffect.sameButStale {s' : State} (h : ByteEffect s b s') (hst : SameButStale s t) :
    ∃ t', ByteEffect t b t' ∧ SameButStale s' t' := by
  have hcount := hst.count
  cases h with
  | status hb =>
    refine ⟨_, .status hb, { hst with count := rfl, buf0 := fun _ => rfl, buf1 := ?_, buf2 := ?_, out := ?_ }⟩
    · rintro (h | h) <;> cases h
    · intro h; cases h
    · by_cases h0 : s.count = 0
      · simp [h0, ← hcount, hst.out]
      · simp only [← hcount, if_neg h0, hst.out, hst.buf0 h0]
  | orphan hb hc => exact ⟨t, .orphan hb (hcount ▸ hc), hst⟩
  | overflow hb hc =>
    exact ⟨_, .overflow hb (hcount ▸ hc), { hst with out := congrArg (· ++ _) hst.out }⟩
  | second hb hc hp =>
    have h0 := hst.buf0 (by simp [hc])
    refine ⟨_, .second hb (hcount ▸ hc) (h0 ▸ hp),
      { hst with count := rfl, buf0 := fun _ => h0, buf1 := fun _ => rfl, buf2 := ?_ }⟩
    intro h; cases h
  | volumeWrite hb hc hp =>
    have h0 := hst.buf0 (by simp [hc])
    refine ⟨_, .volumeWrite hb (hcount ▸ hc) (h0 ▸ hp),
      { hst with
        count := rfl, buf0 := fun _ => h0, buf1 := fun _ => rfl, buf2 := ?_
        halted := by simp [hst.nextAnswer_eq]
        answers := congrArg List.tail hst.answers
        answersTaken := congrArg (· + 1) hst.answersTaken
        out := congrArg (· ++ _) hst.out }⟩
    intro h; cases h
  | third hb hc hn =>
    have h0 := hst.buf0 (by simp [hc])
    exact ⟨_, .third hb (hcount ▸ hc) (h0 ▸ hn),
      { hst with count := rfl, buf0 := fun _ => h0, buf1 := fun _ => hst.buf1 (.inl hc), buf2 := fun _ => rfl }⟩
  | registerWrite hb hc hn =>
    have h0 := hst.buf0 (by simp [hc])
    have h1 := hst.buf1 (.inl hc)
    refine ⟨_, .registerWrite hb (hcount ▸ hc) (h0 ▸ hn),
      { hst with count := rfl, buf0 := fun _ => h0, buf1 := fun _ => h1, buf2 := ?_, out := ?_ }⟩
    · intro h; cases h
    · simp [hst.out, h0, h1]

/-- The same for a step: both states take it in the same way. -/
theorem StepEffect.sameButStale {s' : State} (h : StepEffect s s') (hst : SameButStale s t) :
    ∃ t', StepEffect t t' ∧ SameButStale s' t' := by
  have hreset := hst.resetAsserted_eq
  cases h with
  | reset hr =>
    exact ⟨_, .reset (hreset ▸ hr),
      { hst.passBoundary with
        count := rfl, halted := rfl, buf0 := fun _ => rfl, buf1 := fun _ => rfl, buf2 := fun _ => rfl }⟩
  | wait hr hno => exact ⟨_, .wait (hreset ▸ hr) (by rwa [← hst.halted, ← hst.rx]), hst.passBoundary⟩
  | @byte b rest _ hr hh hx h =>
    obtain ⟨t', ht', hsame⟩ := h.sameButStale (hst.takeFrom rest)
    exact ⟨t', .byte (hreset ▸ hr) (hst.halted ▸ hh) (hst.rx ▸ hx) ht', hsame⟩

/-- Settles O29: the second state's step is the one that goes along with the first's. -/
theorem staleBytesAreNeverRead : Obligations.StaleBytesAreNeverRead := by
  intro s t s' t' hst hs ht
  obtain ⟨t'', ht'', hsame⟩ := (stepEffect_of_step hs).sameButStale hst
  rw [stepEffect_iff, ht] at ht''
  cases ht''
  exact hsame

-- The codec's answers (R6)

/-- The state with other answers, and another number of them taken. -/
def State.withAnswers (as : List CodecAnswer) (n : Nat) (s : State) : State :=
  { s with answers := as, answersTaken := n }

/-- A byte that issues no codec write does the same whatever the answers are, and consumes none. -/
theorem ByteEffect.withAnswers (h : ByteEffect s b t) (hno : ¬ IssuesCodecWrite s t) (as : List CodecAnswer)
    (n : Nat) : ByteEffect (s.withAnswers as n) b (t.withAnswers as n) := by
  cases h with
  | status hb => exact .status hb
  | orphan hb hc => exact .orphan hb hc
  | overflow hb hc => exact .overflow hb hc
  | second hb hc hp => exact .second hb hc hp
  | volumeWrite hb hc hp => exact absurd (IssuesCodecWrite.of_out rfl) hno
  | third hb hc hn => exact .third hb hc hn
  | registerWrite hb hc hn => exact .registerWrite hb hc hn

/-- Settles O30: a reset and a wait read no answer, and a byte reads one only for its codec write. -/
theorem answersAreReadOnlyByCodecWrites : Obligations.AnswersAreReadOnlyByCodecWrites := by
  intro s t as n h hno
  have hnone : ¬ IssuesCodecWrite s t := fun ⟨r, v, hw⟩ => hno r v hw
  have heffect : StepEffect (s.withAnswers as n) (t.withAnswers as n) := by
    cases stepEffect_of_step h with
    | reset hr => exact .reset hr
    | wait hr hwait => exact .wait hr hwait
    | byte hr hh hx h => exact .byte hr hh hx (h.withAnswers hnone as n)
  exact heffect.step_eq

-- The outputs (R39, R87)

/-- A step adds at most one output, after all earlier ones (R87). -/
theorem StepEffect.out_cases (h : StepEffect s t) : t.out = s.out ∨ ∃ o, t.out = s.out ++ [o] := by
  cases h with
  | reset | wait => exact .inl rfl
  | byte _ _ _ h => exact h.out_cases

/-- Settles O25: by the cases of one step. -/
theorem atMostOneOutputPerStep : Obligations.AtMostOneOutputPerStep :=
  fun _ _ h => (stepEffect_of_step h).out_cases

/-- A run of one step more goes through the state that the first step leads to. -/
theorem stepN_succ_eq_next_iff {n : Nat} :
    stepN (n + 1) s = .next t ↔ ∃ u, step s = .next u ∧ stepN n u = .next t := by
  obtain ⟨u, hu, -⟩ := exists_step_next s
  simp [stepN_succ s n hu, hu]

/-- Settles O26: by induction over the steps, each of which adds its output at the end. -/
theorem outputsKeepTheirOrder : Obligations.OutputsKeepTheirOrder := by
  intro n
  induction n with
  | zero =>
    intro s t h
    cases h
    exact List.prefix_rfl
  | succ n ih =>
    intro s t h
    obtain ⟨u, hu, hrest⟩ := stepN_succ_eq_next_iff.mp h
    have hstep : s.out <+: u.out := by
      rcases (stepEffect_of_step hu).out_cases with ho | ⟨o, ho⟩ <;> simp [ho]
    exact hstep.trans (ih u t hrest)

/-- The codec value of the volume operation is 0x100 and the level (R58). -/
theorem volumeValue_toNat (l : Level) : (volumeValue l).toNat = 0x100 + l.toNat := by
  have hdisjoint : codecVolFlag &&& l.setWidth 9 = 0 := by
    apply BitVec.eq_of_getLsbD_eq
    intro j hj
    simp only [BitVec.getLsbD_and, codecVolFlag_getLsbD, BitVec.getLsbD_setWidth]
    by_cases h8 : j = 8 <;> simp [h8]
  have hl := l.isLt
  have hflag : codecVolFlag.toNat = 0x100 := rfl
  rw [volumeValue, ← BitVec.add_eq_or_of_and_eq_zero _ _ hdisjoint, BitVec.toNat_add, BitVec.toNat_setWidth, hflag]
  omega

/-- A byte's codec write goes to register 2 and has a value of the volume operation (R35). -/
theorem ByteEffect.codecWrite_eq (h : ByteEffect s b t) {r : CodecReg} {v : CodecVal}
    (ho : t.out = s.out ++ [.codecWrite r v]) : r = 2 ∧ v = packVol b := by
  have hw := IssuesCodecWrite.of_out ho
  cases h with
  | status =>
    by_cases h0 : s.count = 0
    · exact absurd hw (not_issuesCodecWrite_of_out_eq (if_pos h0))
    · exact absurd hw (not_issuesCodecWrite_of_diag (if_neg h0))
  | orphan | second | third => exact absurd hw (not_issuesCodecWrite_of_out_eq rfl)
  | overflow => exact absurd hw (not_issuesCodecWrite_of_diag rfl)
  | registerWrite => exact absurd hw (not_issuesCodecWrite_of_synthWrite rfl)
  | volumeWrite => simpa [eq_comm] using ho

/-- Settles O46: only a byte issues a codec write, and only the value of a level, which is below 0x80. -/
theorem onlyTheVolumeRegisterIsWritten : Obligations.OnlyTheVolumeRegisterIsWritten := by
  intro s t r v h ho
  cases stepEffect_of_step h with
  | reset | wait => exact absurd (IssuesCodecWrite.of_out ho) (not_issuesCodecWrite_of_out_eq rfl)
  | @byte b _ _ _ _ _ h =>
    obtain ⟨hr, rfl⟩ := h.codecWrite_eq ho
    have hlevel := (volumeLevel b).isLt
    rw [packVol, volumeValue_toNat]
    exact ⟨hr, by omega, by omega⟩

-- What a step is, by what it meets

/-- Settles O23: every step has a next state. -/
theorem stepAlwaysEndsInNextState : Obligations.StepAlwaysEndsInNextState := fun s =>
  let ⟨t, ht, _⟩ := exists_step_next s
  ⟨t, ht⟩

/-- Settles O4: the step with RESET asserted is the reset behind its boundary. -/
theorem resetLeavesTheEnvironment : Obligations.ResetLeavesTheEnvironment := by
  intro s t hr h
  rw [step_of_resetAsserted hr] at h
  cases h
  exact ⟨rfl, rfl, rfl, rfl⟩

/-- Settles O21: the byte is taken and run, and running it is `exec` of what it decodes to. -/
theorem stepRunsDecodedByte : Obligations.StepRunsDecodedByte := by
  intro s b rest i hr hh hx hdecode _
  obtain rfl : decodeByte s.count b = i := by simpa [decode] using hdecode
  exact step_of_byte hr hh hx

/-- Settles O22: no byte can be taken. -/
theorem waitingKeepsAllState : Obligations.WaitingKeepsAllState := fun _ hx hr => step_of_no_byte hr (.inr hx)

/-- Where no level of RESET to come is asserted, the present one is not (R24). -/
theorem resetAsserted_eq_false (hr : ∀ r ∈ s.resetIn, r = false) : s.resetAsserted = false := by
  cases hres : s.resetIn with
  | nil => simp [State.resetAsserted, hres]
  | cons r rs => simpa [State.resetAsserted, hres] using hr r (by simp [hres])

/-- Settles O19: by induction over the steps, each of which only passes its boundary. -/
theorem haltedForeverWithoutReset : Obligations.HaltedForeverWithoutReset := by
  intro n
  induction n with
  | zero => intro s _ _; rfl
  | succ n ih =>
    intro s hh hr
    rw [stepN_succ s n (step_of_no_byte (resetAsserted_eq_false hr) (.inl hh)),
      ih s.passBoundary hh fun r hmem => hr r (List.mem_of_mem_tail hmem)]
    simp [State.passBoundary]

end Sys2Proof.Machine
end

section
/-! PROOFS. The operations one by one: which are refused, what they leave alone, and the write spaces (R30 to R35, R41,
R64, R70, R77 to R80, R83, R90 to R93). -/

namespace Sys2Proof.Machine

variable {s t : State} {b : Byte} {i : Instr}

-- Whether an operation runs (R13, R70; log entry 6)

theorem messageOperation_halted (f : State → State) (hh : s.halted = true) : messageOperation f s = .next s := by
  simp [messageOperation_eq, hh]

/-- Settles O17: every operation, of a byte or of a message, runs on a running block only. -/
theorem haltedBlockDoesNothing : Obligations.HaltedBlockDoesNothing := by
  intro i s hh
  cases instrKind i with
  | orphan | append | overflow => exact byteOperation_halted s hh
  | status hf =>
    rw [exec_status s hf]
    exact byteOperation_halted s hh
  | regwr | volset => exact messageOperation_halted _ hh

/-- A running block refuses a byte-level operation exactly where the tests of R70 do not select it. -/
theorem byteOperation_refused_iff (f : State → State) (hh : s.halted = false) :
    byteOperation i f s = .refused .notSelected ↔ ¬(i.wellFormed = true ∧ i.selectedAt s.count = true) := by
  rw [byteOperation, if_neg (by simp [hh]), ← Bool.and_eq_true]
  split
  · rename_i hsel
    simp [hsel]
  · rename_i hsel
    simp [hsel]

/-- Settles O11: a byte-level operation by its tests, and a message, which is always selected, is never refused. -/
theorem unselectedOperationIsRefused : Obligations.UnselectedOperationIsRefused := by
  intro i s hh
  cases instrKind i with
  | orphan | append | overflow => exact byteOperation_refused_iff _ hh
  | status hf =>
    rw [exec_status s hf]
    exact byteOperation_refused_iff _ hh
  | regwr a v => simp [exec_regwr_running a v hh, Instr.wellFormed, Instr.selectedAt]
  | volset l => simp [exec_volset_running l hh, Instr.wellFormed, Instr.selectedAt]

/-- What an operation does where it answers a next state. `execEffect_of_exec` ties it to `exec`. -/
inductive ExecEffect (s : State) : Instr → State → Prop where
  /-- A halted block does nothing (R13, R84). -/
  | halted {i : Instr} (hh : s.halted = true) : ExecEffect s i s
  /-- A byte-level operation that the tests of R70 select is what its byte does. -/
  | byte {i : Instr} {b : Byte} {t : State} (he : encode i = [b]) (hw : i.wellFormed = true)
      (hs : i.selectedAt s.count = true) (h : ByteEffect s b t) : ExecEffect s i t
  /-- REGWR is one SYNTH write (R92). -/
  | regwr (a : SynthAddr) (v : Byte) : ExecEffect s (.regwr a v) (regwr a v s)
  /-- VOLSET is the volume operation (R93). -/
  | volset (l : Level) : ExecEffect s (.volset l) (volset l s)

theorem execEffect_of_exec (h : exec i s = .next t) : ExecEffect s i t := by
  cases hh : s.halted with
  | true =>
    rw [haltedBlockDoesNothing i s hh] at h
    cases h
    exact .halted hh
  | false =>
    have hsel : i.wellFormed = true ∧ i.selectedAt s.count = true := by
      by_contra hno
      rw [(unselectedOperationIsRefused i s hh).mpr hno] at h
      cases h
    obtain ⟨hw, hs⟩ := hsel
    have of_byte {b : Byte} (he : encode i = [b]) : ExecEffect s i t := by
      rw [← decodeByte_of_encode he hw hs] at h
      exact .byte he hw hs (byteEffect_of_blockStep hh h)
    cases instrKind i with
    | orphan | append | overflow => exact of_byte rfl
    | status hf => exact of_byte (encode_of_form hf)
    | regwr a v =>
      rw [exec_regwr_running a v hh] at h
      cases h
      exact .regwr a v
    | volset l =>
      rw [exec_volset_running l hh] at h
      cases h
      exact .volset l

/-- The volume operation issues its one write whichever the answer is (R33). -/
theorem volset_out (l : Level) (s : State) : (volset l s).out = s.out ++ [.codecWrite 2 (volumeValue l)] := by
  rw [volset_eq]
  cases s.nextAnswer <;> rfl

theorem volset_input (l : Level) (s : State) : (volset l s).rx = s.rx ∧ (volset l s).resetIn = s.resetIn := by
  rw [volset_eq]
  cases s.nextAnswer <;> exact ⟨rfl, rfl⟩

/-- Settles O31: a byte and a message leave RX and RESET alone. -/
theorem operationsLeaveTheInputAlone : Obligations.OperationsLeaveTheInputAlone := by
  intro i s t h
  cases execEffect_of_exec h with
  | halted hh => exact ⟨rfl, rfl⟩
  | byte he hw hs h => exact h.input_eq
  | regwr a v => exact ⟨rfl, rfl⟩
  | volset l => exact volset_input l s

-- DATA.APPEND and the messages it completes (R77 to R80, R83, R90)

/-- Settles O8: neither completion test holds, so the byte is stored and nothing more. -/
theorem appendedByteIsStored : Obligations.AppendedByteIsStored := by
  intro s b hh hb
  constructor
  · intro hc h0
    rw [exec_dataAppend_of_data hh hb (.inl hc), appendByte_one s b hc, if_neg (by simpa [pcStatus_iff] using h0)]
  · intro hc h0
    rw [exec_dataAppend_of_data hh hb (.inr hc), appendByte_two s b hc, if_neg (by rwa [noteonStatus_iff])]

/-- Settles O14: the bytes of the message decode to its operation, and the Router's part of the completion is that
operation on the state with the byte appended. -/
theorem completingByteRunsItsMessage : Obligations.CompletingByteRunsItsMessage := by
  rintro s b ⟨-, hdata1, -⟩ hh hlo
  have hb : isStatus b = false := (isData_iff b).mpr hlo
  constructor
  · intro hc hn
    refine ⟨_, decode_noteOnShaped 0 hn (hdata1 (.inl hc)) hb, ?_⟩
    rw [(ByteEffect.registerWrite hb hc hn).blockStep_eq hh,
      exec_regwr_running (s := { s with buf2 := b, count := 3 }) _ _ hh]
    rfl
  · intro hc hp
    refine ⟨_, decode_programChangeShaped 0 hp hb, ?_⟩
    rw [blockStep_of_append hh (.inl hc) hb, appendByte_one s b hc, if_pos hp,
      exec_volset_running (s := { s with buf1 := b, count := 2 }) _ hh]
    rfl

theorem isStatus_dataByte (d : BitVec 7) : isStatus (dataByte d) = false := by simp [isStatus, dataByte]

theorem noteonStatus_noteOnStatusByte (hka : BitVec 3) : noteonStatus (noteOnStatusByte hka) = true := by
  revert hka
  decide

/-- The byte range of a Note-On-shaped message is format N3 (R52, R83). -/
theorem messageInRange_three_iff {b0 b1 b2 : Byte} :
    messageInRange [b0, b1, b2] = true ↔ noteonStatus b0 = true ∧ isStatus b1 = false ∧ isStatus b2 = false := by
  simp [messageInRange, noteonStatus, noteOnMask, noteOnMatch, and_assoc]

/-- Every message is in the byte range of its form (R83, R91). -/
theorem messageInRange_bytes (m : DecodedMessage) : messageInRange m.bytes = true := by
  cases m with
  | noteOn hka d1 d2 =>
    exact messageInRange_three_iff.mpr
      ⟨noteonStatus_noteOnStatusByte hka, isStatus_dataByte d1, isStatus_dataByte d2⟩
  | progChange d1 => simp [DecodedMessage.bytes, messageInRange, pcStatusByte, isStatus_dataByte]

/-- The message of three bytes in format N3 has those bytes (R36, R52). -/
theorem bytes_ofNoteOn {b0 b1 b2 : Byte} (hn : noteonStatus b0 = true) (h1 : isStatus b1 = false)
    (h2 : isStatus b2 = false) : (DecodedMessage.ofNoteOn b0 b1 b2).bytes = [b0, b1, b2] := by
  simp [DecodedMessage.ofNoteOn, DecodedMessage.bytes, noteOnStatusByte_payload hn, dataByte_payload h1,
    dataByte_payload h2]

/-- The message of two bytes in format P2 has those bytes (R36, R53). -/
theorem bytes_ofProgChange {b0 b1 : Byte} (hp : pcStatus b0 = true) (h1 : isStatus b1 = false) :
    (DecodedMessage.ofProgChange b1).bytes = [b0, b1] := by
  rw [DecodedMessage.ofProgChange, DecodedMessage.bytes, dataByte_payload h1, (pcStatus_iff b0).mp hp]
  rfl

/-- Settles O15: the message found is that of the buffer, whose bytes are in the form's ranges. -/
theorem routerReceivesOnlyMessages : Obligations.RouterReceivesOnlyMessages := by
  refine ⟨messageInRange_bytes, ?_⟩
  rintro s b m ⟨-, hdata1, -⟩ hh hlo hc hm
  have hb : isStatus b = false := (isData_iff b).mpr hlo
  rcases hc with hc | hc
  · rcases completedMessage_cases _ hm with ⟨-, -, hlen⟩ | ⟨rfl, hp, -⟩
    · simp [hc] at hlen
    · simp only [State.setCount_buf0, State.setCount_buf1, State.bufWrite_buf0, State.bufWrite_buf1, hc] at hp ⊢
      exact bytes_ofProgChange hp hb
  · rcases completedMessage_cases _ hm with ⟨rfl, hn, -⟩ | ⟨-, -, hlen⟩
    · simp only [State.setCount_buf0, State.setCount_buf1, State.setCount_buf2, State.bufWrite_buf0,
        State.bufWrite_buf1, State.bufWrite_buf2, hc] at hn ⊢
      exact bytes_ofNoteOn hn (hdata1 (.inl hc)) hb
    · simp [hc] at hlen

-- Every write has its message (R35)

/-- Settles O45: the bytes of REGWR are the one message, as packing and encoding are inverse; the codec values are
0x100 and a level. -/
theorem everyWriteHasExactlyOneMessage : Obligations.EveryWriteHasExactlyOneMessage := by
  constructor
  · intro a v
    refine ⟨regwrStatus a v, regwrData a, v &&& dataMask,
      messageInRange_three_iff.mpr ⟨noteonStatus_regwrStatus a v, isStatus_regwrData a, isStatus_and_dataMask v⟩,
      packAddr_regwr a v, packVal_regwr a v, ?_⟩
    rintro c0 c1 c2 hrange rfl rfl
    obtain ⟨hn, h1, h2⟩ := messageInRange_three_iff.mp hrange
    exact ⟨(regwrStatus_pack c1 c2 hn).symm, (regwrData_packAddr c0 h1).symm, (packVal_and_dataMask c0 h2).symm⟩
  · intro v
    constructor
    · rintro ⟨b1, -, rfl⟩
      have hlevel := (volumeLevel b1).isLt
      rw [packVol, volumeValue_toNat]
      omega
    · rintro ⟨hlo, hhi⟩
      refine ⟨volsetData (v.setWidth 7), (isData_iff _).mp (isStatus_volsetData _), BitVec.eq_of_toNat_eq ?_⟩
      rw [packVol, volumeLevel_volsetData, volumeValue_toNat, BitVec.toNat_setWidth]
      omega

-- The write spaces (R30, R31; log entry 7)

variable {o : Output} {a a' : SynthAddr} {v : Byte} {r r' : CodecReg} {x : CodecVal}

theorem synthRead_of_append (h : t.out = s.out ++ [o]) (a : SynthAddr) :
    t.synthRead a = (synthApply (synthImage s.out) o).read a.toNat := by
  rw [State.synthRead, h, synthImage_append]

theorem codecRead_of_append (h : t.out = s.out ++ [o]) (r : CodecReg) :
    t.codecRead r = (codecApply (codecImage s.out) o).read r.toNat := by
  rw [State.codecRead, h, codecImage_append]

/-- A SYNTH write records its value at its own address. -/
theorem synthRead_of_synthWrite (h : t.out = s.out ++ [.synthWrite a v]) : t.synthRead a = some v := by
  rw [synthRead_of_append h, synthApply, Memory.read_write_same]

/-- A SYNTH write leaves every other address. -/
theorem synthRead_of_synthWrite_ne (h : t.out = s.out ++ [.synthWrite a v]) (ha : a' ≠ a) :
    t.synthRead a' = s.synthRead a' := by
  rw [synthRead_of_append h, synthApply, Memory.read_write_other _ _ (mt BitVec.eq_of_toNat_eq ha), State.synthRead]

/-- A SYNTH write leaves the CODEC space (R30). -/
theorem codecRead_of_synthWrite (h : t.out = s.out ++ [.synthWrite a v]) (r : CodecReg) :
    t.codecRead r = s.codecRead r :=
  codecRead_of_append h r

/-- A codec write leaves the SYNTH space (R30). -/
theorem synthRead_of_codecWrite (h : t.out = s.out ++ [.codecWrite r x]) (a : SynthAddr) :
    t.synthRead a = s.synthRead a :=
  synthRead_of_append h a

/-- A codec write records its value at its own register. -/
theorem codecRead_of_codecWrite (h : t.out = s.out ++ [.codecWrite r x]) : t.codecRead r = some x := by
  rw [codecRead_of_append h, codecApply, Memory.read_write_same]

/-- A codec write leaves every other register. -/
theorem codecRead_of_codecWrite_ne (h : t.out = s.out ++ [.codecWrite r x]) (hr : r' ≠ r) :
    t.codecRead r' = s.codecRead r' := by
  rw [codecRead_of_append h, codecApply, Memory.read_write_other _ _ (mt BitVec.eq_of_toNat_eq hr), State.codecRead]

/-- The two spaces are the same to every read. -/
def SameSpaces (s t : State) : Prop := (∀ a, t.synthRead a = s.synthRead a) ∧ ∀ r, t.codecRead r = s.codecRead r

theorem sameSpaces_of_out_eq (h : t.out = s.out) : SameSpaces s t := by
  simp [SameSpaces, State.synthRead, State.codecRead, h]

theorem sameSpaces_of_diag {e : DiagEvent} (h : t.out = s.out ++ [.diag e]) : SameSpaces s t :=
  ⟨synthRead_of_append h, codecRead_of_append h⟩

/-- What one byte leaves in the write spaces: both, but for the address of the message it completes. -/
theorem ByteEffect.spaces (h : ByteEffect s b t) :
    SameSpaces s t ∨
    (isStatus b = false ∧ s.count = 1 ∧ pcStatus s.buf0 = true ∧ t.out = s.out ++ [.codecWrite 2 (packVol b)]) ∨
    (isStatus b = false ∧ s.count = 2 ∧ noteonStatus s.buf0 = true ∧
      t.out = s.out ++ [.synthWrite (packAddr s.buf0 s.buf1) (packVal s.buf0 b)]) := by
  cases h with
  | status hb =>
    by_cases h0 : s.count = 0
    · exact .inl (sameSpaces_of_out_eq (if_pos h0))
    · exact .inl (sameSpaces_of_diag (if_neg h0))
  | orphan | second | third => exact .inl (sameSpaces_of_out_eq rfl)
  | overflow => exact .inl (sameSpaces_of_diag rfl)
  | volumeWrite hb hc hp => exact .inr (.inl ⟨hb, hc, hp, rfl⟩)
  | registerWrite hb hc hn => exact .inr (.inr ⟨hb, hc, hn, rfl⟩)

/-- A byte that DATA.APPEND does not take changes neither space. -/
theorem ByteEffect.sameSpaces (h : ByteEffect s b t) (hno : isStatus b = true ∨ s.count = 0 ∨ s.count = 3) :
    SameSpaces s t := by
  rcases h.spaces with hsame | ⟨hb, hc, -, -⟩ | ⟨hb, hc, -, -⟩
  · exact hsame
  · simp [hb, hc] at hno
  · simp [hb, hc] at hno

/-- A byte changes the SYNTH space only at the address that its completed message packs (R92). -/
theorem ByteEffect.synthRead_eq (h : ByteEffect s b t)
    (hno : ¬(s.count = 2 ∧ noteonStatus s.buf0 = true ∧ a = packAddr s.buf0 s.buf1)) :
    t.synthRead a = s.synthRead a := by
  rcases h.spaces with ⟨hsynth, -⟩ | ⟨-, -, -, ho⟩ | ⟨-, hc, hn, ho⟩
  · exact hsynth a
  · exact synthRead_of_codecWrite ho a
  · exact synthRead_of_synthWrite_ne ho fun ha => hno ⟨hc, hn, ha⟩

/-- A byte changes the CODEC space only at register 2, and only where it completes a volume message (R93). -/
theorem ByteEffect.codecRead_eq (h : ByteEffect s b t) (hno : ¬(s.count = 1 ∧ pcStatus s.buf0 = true ∧ r = 2)) :
    t.codecRead r = s.codecRead r := by
  rcases h.spaces with ⟨-, hcodec⟩ | ⟨-, hc, hp, ho⟩ | ⟨-, -, -, ho⟩
  · exact hcodec r
  · exact codecRead_of_codecWrite_ne ho fun hr => hno ⟨hc, hp, hr⟩
  · exact codecRead_of_synthWrite ho r

/-- Every operation but DATA.APPEND and the two messages changes neither space. -/
theorem ExecEffect.sameSpaces (h : ExecEffect s i t) (he : encode i = [b])
    (hno : i.wellFormed = true → i.selectedAt s.count = true → isStatus b = true ∨ s.count = 0 ∨ s.count = 3) :
    SameSpaces s t := by
  cases h with
  | halted hh => exact sameSpaces_of_out_eq rfl
  | byte he' hw hs h =>
    cases he'.symm.trans he
    exact h.sameSpaces (hno hw hs)
  | regwr a v => simp [encode_regwr] at he
  | volset l => simp [encode_volset] at he

/-- Settles O47: by the kind of the operation. -/
theorem writeSpacesChangeOnlyWhereStored : Obligations.WriteSpacesChangeOnlyWhereStored := by
  intro i s t a r h
  have heffect := execEffect_of_exec h
  cases instrKind i with
  | orphan b =>
    obtain ⟨hsynth, hcodec⟩ := heffect.sameSpaces rfl fun _ hs => .inr (.inl (by simpa [Instr.selectedAt] using hs))
    exact ⟨hsynth a, hcodec r⟩
  | overflow b =>
    obtain ⟨hsynth, hcodec⟩ := heffect.sameSpaces rfl fun _ hs => .inr (.inr (by simpa [Instr.selectedAt] using hs))
    exact ⟨hsynth a, hcodec r⟩
  | status hf =>
    obtain ⟨hsynth, hcodec⟩ := heffect.sameSpaces (encode_of_form hf) fun hw _ => .inl (isStatus_of_form hf hw)
    rcases hf with h | h | h | h | h | h | h | h | h | h | h <;> subst h <;> exact ⟨hsynth a, hcodec r⟩
  | append b =>
    cases heffect with
    | halted hh => exact ⟨fun _ => rfl, fun _ => rfl⟩
    | byte he hw hs h => exact ⟨h.synthRead_eq, h.codecRead_eq⟩
  | regwr a0 v =>
    cases heffect with
    | halted hh => exact ⟨fun _ => rfl, rfl⟩
    | byte he => simp [encode_regwr] at he
    | regwr => exact ⟨synthRead_of_synthWrite_ne rfl, codecRead_of_synthWrite rfl r⟩
  | volset l =>
    cases heffect with
    | halted hh => exact ⟨rfl, fun _ => rfl⟩
    | byte he => simp [encode_volset] at he
    | volset => exact ⟨synthRead_of_codecWrite (volset_out l s) a, codecRead_of_codecWrite_ne (volset_out l s)⟩

/-- Settles O48: each of the three writes is the last output, and is read back at its own address. -/
theorem writeIsTheLastValueIssued : Obligations.WriteIsTheLastValueIssued := by
  intro s t hh
  refine ⟨fun a v h => ?_, fun l h => ?_, fun b hc hn h => ?_⟩
  · rw [exec_regwr_running a v hh] at h
    cases h
    exact synthRead_of_synthWrite rfl
  · rw [exec_volset_running l hh] at h
    cases h
    exact codecRead_of_codecWrite (volset_out l s)
  · rcases byteOperation_cases s h with ⟨hhalt, -⟩ | ⟨-, -, -, rfl⟩
    · simp [hh] at hhalt
    · rw [appendByte_two s b hc, if_pos hn]
      exact synthRead_of_synthWrite rfl

-- Table words (R65; log entry 8)

/-- Settles O43: six closed words. -/
theorem writtenWordsDecode : Obligations.WrittenWordsDecode := by
  unfold Obligations.WrittenWordsDecode
  decide

end Sys2Proof.Machine
end

section
/-! PROOFS. Runs of bytes (R54, R61, R64, R75, R82, R137; properties Q2 and Q9). -/

namespace Sys2Proof.Machine

variable {s t : State} {b b0 b1 b2 : Byte} {bs : List Byte}

-- Runs in general

/-- A halted block takes no byte of a run (R13). -/
theorem feed_of_halted (bs : List Byte) (hh : s.halted = true) : feed bs s = .next s := by
  induction bs with
  | nil => rfl
  | cons b bs ih => rw [feed_cons s b bs (blockStep_halted s b hh), ih]

/-- What every byte of a run keeps, the run keeps. -/
theorem feed_keeps {P : State → Prop} (hkeep : ∀ b ∈ bs, ∀ s u, P s → blockStep b s = .next u → P u) (hs : P s)
    (h : feed bs s = .next t) : P t := by
  induction bs generalizing s with
  | nil =>
    cases h
    exact hs
  | cons b bs ih =>
    obtain ⟨hb, hbs⟩ := List.forall_mem_cons.mp hkeep
    obtain ⟨u, hu, hrest⟩ := feed_cons_eq_next_iff.mp h
    exact ih hbs (hb s u hs hu) hrest

-- Data bytes (R54, R61, R75)

/-- Settles O37: by induction over the bytes, each an orphan, or not taken at all by a halted block. -/
theorem dataWithoutStatusIsIgnored : Obligations.DataWithoutStatusIsIgnored := by
  intro ds s hc hds
  cases hh : s.halted with
  | true => exact feed_of_halted ds hh
  | false =>
    induction ds with
    | nil => rfl
    | cons d ds ih =>
      obtain ⟨hd, hrest⟩ := List.forall_mem_cons.mp hds
      rw [feed_cons s d ds (blockStep_of_orphan hh hc ((isData_iff d).mpr hd)), ih hrest]

/-- The block runs inside a message with the unrecognised status byte `b0`, and has issued `n` bus writes. -/
structure InsideUnrecognised (b0 : Byte) (n : Nat) (s : State) : Prop where
  writes : writesIn s.out = n
  running : s.halted = false
  inside : s.count ≠ 0
  status : s.buf0 = b0

/-- Behind an unrecognised status byte a data byte is stored or dropped, and completes nothing (R54, R74). -/
theorem InsideUnrecognised.blockStep {n : Nat} (hs : InsideUnrecognised b0 n s) (hn : noteonStatus b0 = false)
    (hp : pcStatus b0 = false) (hb : isStatus b = false) (h : blockStep b s = .next t) :
    InsideUnrecognised b0 n t := by
  obtain ⟨hw, hh, hc0, rfl⟩ := hs
  cases byteEffect_of_blockStep hh h with
  | status hb' => simp [hb] at hb'
  | orphan _ hc => exact absurd hc hc0
  | overflow _ hc => exact ⟨by simp [← hw, writesIn, isWrite], hh, hc0, rfl⟩
  | second => exact ⟨hw, hh, by simp, rfl⟩
  | volumeWrite _ _ hp' => simp [hp] at hp'
  | third => exact ⟨hw, hh, by simp, rfl⟩
  | registerWrite _ _ hn' => simp [hn] at hn'

/-- Settles O40: every data byte leaves the block inside that message with no write issued. -/
theorem unrecognisedStatusNeverWrites : Obligations.UnrecognisedStatusNeverWrites := by
  intro ds s t hh hc hn hp hds h
  obtain ⟨hw, hh', hc', h0⟩ : InsideUnrecognised s.buf0 (writesIn s.out) t :=
    feed_keeps (fun d hd _ _ hs hu => hs.blockStep hn hp ((isData_iff d).mpr (hds d hd)) hu) ⟨rfl, hh, hc, rfl⟩ h
  exact ⟨hw, hh', hc', h0⟩

-- Answers of success (property Q9)

/-- A byte consumes the first answer or none (R22). -/
theorem ByteEffect.answers_cases (h : ByteEffect s b t) : t.answers = s.answers ∨ t.answers = s.answers.tail := by
  cases h with
  | volumeWrite => exact .inr rfl
  | status | orphan | overflow | second | third | registerWrite => exact .inl rfl

/-- Where the next answer is `success`, one byte does not halt the block. -/
theorem ByteEffect.running_of_ok (h : ByteEffect s b t) (hh : s.halted = false) (ha : s.nextAnswer = .ok) :
    t.halted = false := by
  cases h with
  | volumeWrite => simp [ha]
  | status | orphan | overflow | second | third | registerWrite => exact hh

/-- Settles O20: by induction over the bytes, each of which finds an answer, and consumes at most that one. -/
theorem successfulAnswersNeverHalt : Obligations.SuccessfulAnswersNeverHalt := by
  intro bs
  induction bs with
  | nil =>
    intro s t hh _ _ h
    cases h
    exact hh
  | cons b bs ih =>
    intro s t hh hlen hok h
    obtain ⟨u, hu, hrest⟩ := feed_cons_eq_next_iff.mp h
    have heffect := byteEffect_of_blockStep hh hu
    cases hans : s.answers with
    | nil => simp [hans] at hlen
    | cons a as =>
      have ha : s.nextAnswer = .ok := by
        rw [State.nextAnswer, hans]
        exact hok a (by simp [hans])
      have hlen' : bs.length ≤ as.length := by simpa [hans] using hlen
      refine ih u t (heffect.running_of_ok hh ha) ?_ ?_ hrest
      · rcases heffect.answers_cases with hu | hu <;> rw [hu, hans]
        · exact Nat.le_succ_of_le hlen'
        · exact hlen'
      · rcases heffect.answers_cases with hu | hu <;> rw [hu]
        · exact hok
        · exact fun a hmem => hok a (List.mem_of_mem_tail hmem)

-- The machine's steps over received bytes (R137)

/-- Where the run does not halt, the steps over the bytes delivered to an empty RX are the run. -/
theorem stepN_deliver_of_feed (bs : List Byte) (hrx : s.rx = []) (hr : s.resetIn = []) (h : feed bs s = .next t)
    (ht : t.halted = false) : stepN bs.length (s.deliver bs) = .next t := by
  induction bs generalizing s with
  | nil => simpa [State.deliver, stepN, feed] using h
  | cons b bs ih =>
    have hh : s.halted = false := by
      by_contra hhalt
      rw [Bool.not_eq_false] at hhalt
      rw [feed_of_halted (b :: bs) hhalt] at h
      cases h
      simp [hhalt] at ht
    obtain ⟨u, hu, hrest⟩ := feed_cons_eq_next_iff.mp h
    obtain ⟨hurx, hur⟩ := (byteEffect_of_blockStep hh hu).input_eq
    have htake : step (s.deliver (b :: bs)) = blockStep b (s.deliver bs) := by
      rw [step_of_byte (s := s.deliver (b :: bs)) (b := b) (rest := bs) (by simp [State.resetAsserted, hr]) hh
        (by simp [hrx])]
      simp [State.deliver, hrx, hr]
    have hstep : step (s.deliver (b :: bs)) = .next (u.deliver bs) := htake.trans (blockStep_deliver bs hu)
    rw [List.length_cons, stepN_succ _ _ hstep]
    exact ih (hurx.trans hrx) (hur.trans hr) hrest

/-- Settles O32: bytes waiting on RX are bytes delivered to it while it was empty. -/
theorem stepsOverReceivedBytesAreTheRun : Obligations.StepsOverReceivedBytesAreTheRun :=
  fun bs s _ h ht => stepN_deliver_of_feed (s := { s with rx := [], resetIn := [] }) bs rfl rfl h ht

-- Bus writes and status bytes (property Q2)

/-- How many bus writes the message in progress may still issue without another status byte. -/
def State.pendingWrites (s : State) : Nat := if s.count = 0 then 0 else 1

/-- The bus writes issued, with the one that the message in progress may issue, grow by at most one for a status byte
and not at all for a data byte. -/
theorem ByteEffect.writes_le (h : ByteEffect s b t) :
    writesIn t.out + t.pendingWrites ≤ writesIn s.out + s.pendingWrites + statusBytesIn [b] := by
  cases h with
  | status hb =>
    by_cases h0 : s.count = 0#2 <;> simp [State.pendingWrites, writesIn, isWrite, statusBytesIn, hb, h0]
  | orphan => exact Nat.le_add_right _ _
  | overflow _ hc => simp [State.pendingWrites, writesIn, isWrite, hc]
  | second _ hc => simp [State.pendingWrites, hc]
  | volumeWrite _ hc => simp [State.pendingWrites, writesIn, isWrite, hc]
  | third _ hc => simp [State.pendingWrites, hc]
  | registerWrite _ hc => simp [State.pendingWrites, writesIn, isWrite, hc]

/-- The bus writes of a run, with the one that the message in progress may still issue (property Q2). -/
theorem feed_writes_le (bs : List Byte) (h : feed bs s = .next t) :
    writesIn t.out + t.pendingWrites ≤ writesIn s.out + s.pendingWrites + statusBytesIn bs := by
  induction bs generalizing s with
  | nil =>
    cases h
    exact Nat.le_add_right _ _
  | cons b bs ih =>
    cases hh : s.halted with
    | true =>
      rw [feed_of_halted (b :: bs) hh] at h
      cases h
      exact Nat.le_add_right _ _
    | false =>
      obtain ⟨u, hu, hrest⟩ := feed_cons_eq_next_iff.mp h
      have hsplit : statusBytesIn (b :: bs) = statusBytesIn [b] + statusBytesIn bs := by
        rw [statusBytesIn, ← List.singleton_append, List.countP_append]
        rfl
      have hbyte := (byteEffect_of_blockStep hh hu).writes_le
      have hbytes := ih hrest
      omega

/-- Settles O34: the write still pending at the end is left out. -/
theorem writesAreBoundedByStatusBytes : Obligations.WritesAreBoundedByStatusBytes := by
  intro bs s t h
  have hrun := feed_writes_le bs h
  rw [State.pendingWrites, State.pendingWrites] at hrun
  omega

-- Whole messages (R64, R82)

/-- What a status byte adds to the outputs: the event of the message in progress that it drops, if any (R71, R106). -/
def State.dropEvents (s : State) : List Output := if s.count = 0 then [] else [.diag (.dropIncomplete s.buf0)]

/-- The state with the status byte `b` accepted (R71). -/
def State.started (s : State) (b : Byte) : State :=
  { s with buf0 := b, count := 1, out := s.out ++ s.dropEvents }

theorem blockStep_started (hh : s.halted = false) (hb : isStatus b = true) :
    blockStep b s = .next (s.started b) := by
  rw [(ByteEffect.status hb).blockStep_eq hh, State.started, State.dropEvents]
  split
  · rw [List.append_nil]
  · rfl

theorem isStatus_of_noteonStatus (hn : noteonStatus b = true) : isStatus b = true := by
  have hrange := (noteonStatus_iff b).mp hn
  exact (isStatus_iff b).mpr (by omega)

theorem pcStatus_of_noteonStatus (hn : noteonStatus b = true) : pcStatus b = false := by
  by_contra hp
  rw [Bool.not_eq_false] at hp
  simp [noteonStatus_of_pcStatus hp] at hn

/-- The three bytes of a register message, fed to a running block, end in its write (R78, R92). -/
theorem feed_registerMessage (hh : s.halted = false) (hn : noteonStatus b0 = true) (h1 : isStatus b1 = false)
    (h2 : isStatus b2 = false) :
    feed [b0, b1, b2] s = .next { s with
      buf0 := b0, buf1 := b1, buf2 := b2, count := 0
      out := s.out ++ s.dropEvents ++ [.synthWrite (packAddr b0 b1) (packVal b0 b2)] } := by
  have hsecond := (ByteEffect.second (s := s.started b0) h1 rfl (pcStatus_of_noteonStatus hn)).blockStep_eq hh
  have hthird :=
    (ByteEffect.registerWrite (s := { s.started b0 with buf1 := b1, count := 2 }) h2 rfl hn).blockStep_eq hh
  rw [feed_cons _ _ _ (blockStep_started hh (isStatus_of_noteonStatus hn)), feed_cons _ _ _ hsecond,
    feed_cons _ _ _ hthird]
  rfl

/-- The two bytes of a volume message, fed to a running block, end in its write, and `halted` tells the answer (R79,
R93, R110). -/
theorem feed_volumeMessage (hh : s.halted = false) (hp : pcStatus b0 = true) (h1 : isStatus b1 = false) :
    feed [b0, b1] s = .next { s with
      buf0 := b0, buf1 := b1, count := 0, answers := s.answers.tail, answersTaken := s.answersTaken + 1
      halted := decide (s.nextAnswer = .fail), out := s.out ++ s.dropEvents ++ [.codecWrite 2 (packVol b1)] } := by
  have hstatus : isStatus b0 = true := by
    rw [(pcStatus_iff b0).mp hp]
    rfl
  have hsecond := (ByteEffect.volumeWrite (s := s.started b0) h1 rfl hp).blockStep_eq hh
  rw [feed_cons _ _ _ (blockStep_started hh hstatus), feed_cons _ _ _ hsecond]
  rfl

/-- Settles O35: the bytes of REGWR are a register message that packs to its operands. -/
theorem registerWriteAlwaysArrives : Obligations.RegisterWriteAlwaysArrives := by
  intro s a v hh
  have hrun := feed_registerMessage hh (noteonStatus_regwrStatus a v) (isStatus_regwrData a) (isStatus_and_dataMask v)
  rw [← encode_regwr, packAddr_regwr, packVal_regwr] at hrun
  exact ⟨_, hrun, rfl, hh, rfl⟩

/-- Settles O36: the bytes of VOLSET are a volume message of its level. -/
theorem volumeWriteAlwaysArrives : Obligations.VolumeWriteAlwaysArrives := by
  intro s l hh
  have hrun := feed_volumeMessage hh ((pcStatus_iff 0xC0).mpr rfl) (isStatus_volsetData l)
  rw [← encode_volset, packVol, volumeLevel_volsetData] at hrun
  exact ⟨_, hrun, rfl, decide_eq_true_iff, rfl⟩

end Sys2Proof.Machine
end
